-- ==== Sys2Proof/Word.lean ====
section
/-! DEFINITION. The word types of the core (spec/00_scope.md rules R10 to R13): every value is unsigned. -/

namespace Sys2Proof

/-- An 8-bit value: a general register, a timer, a byte of memory (R10, `V_WIDTH`). -/
abbrev Byte := BitVec 8

/-- A 16-bit value: an instruction word (R11), `I`, `PC`, a stack slot (R10). -/
abbrev Word := BitVec 16

/-- A 12-bit memory address, 0x000 to 0xFFF (R10 `ADDR_BITS`, R80). -/
abbrev Addr := BitVec 12

/-- A 4-bit field: a register index, a key index, the row count N (R112). -/
abbrev Nibble := BitVec 4

end Sys2Proof
end

