-- ==== Sys2Proof/Syntax.lean ====
section
/-! DEFINITION. The 35 instructions of spec/opcode_table.json (spec/30_encoding.md rule R121), one constructor per row,
named after the decode tree of rule R115. -/

namespace Sys2Proof

/-- One instruction. `x` and `y` are register indices, `nn` an 8-bit immediate, `nnn` a 12-bit address, `n` a row
count (R112). `sys`, `shr` and `shl` keep the fields they ignore (R117), so that no bit of a word is dropped
(DESIGN CHOICE, log 14, safe). -/
inductive Instr where
  /-- 00E0 -/
  | cls
  /-- 00EE -/
  | ret
  /-- 0NNN, every group-0 word but 00E0 and 00EE -/
  | sys (nnn : Addr)
  /-- 1NNN -/
  | jp (nnn : Addr)
  /-- 2NNN -/
  | call (nnn : Addr)
  /-- 3XNN -/
  | seImm (x : Nibble) (nn : Byte)
  /-- 4XNN -/
  | sneImm (x : Nibble) (nn : Byte)
  /-- 5XY0 -/
  | seReg (x y : Nibble)
  /-- 6XNN -/
  | ldImm (x : Nibble) (nn : Byte)
  /-- 7XNN -/
  | addImm (x : Nibble) (nn : Byte)
  /-- 8XY0 -/
  | ldReg (x y : Nibble)
  /-- 8XY1 -/
  | orReg (x y : Nibble)
  /-- 8XY2 -/
  | andReg (x y : Nibble)
  /-- 8XY3 -/
  | xorReg (x y : Nibble)
  /-- 8XY4 -/
  | addReg (x y : Nibble)
  /-- 8XY5 -/
  | sub (x y : Nibble)
  /-- 8XY6; `y` is ignored -/
  | shr (x y : Nibble)
  /-- 8XY7 -/
  | subn (x y : Nibble)
  /-- 8XYE; `y` is ignored -/
  | shl (x y : Nibble)
  /-- 9XY0 -/
  | sneReg (x y : Nibble)
  /-- ANNN -/
  | ldI (nnn : Addr)
  /-- BNNN -/
  | jpV0 (nnn : Addr)
  /-- CXNN -/
  | rnd (x : Nibble) (nn : Byte)
  /-- DXYN -/
  | drw (x y n : Nibble)
  /-- EX9E -/
  | skp (x : Nibble)
  /-- EXA1 -/
  | sknp (x : Nibble)
  /-- FX07 -/
  | ldXDt (x : Nibble)
  /-- FX0A -/
  | ldXK (x : Nibble)
  /-- FX15 -/
  | ldDtX (x : Nibble)
  /-- FX18 -/
  | ldStX (x : Nibble)
  /-- FX1E -/
  | addIX (x : Nibble)
  /-- FX29 -/
  | ldFX (x : Nibble)
  /-- FX33 -/
  | ldBX (x : Nibble)
  /-- FX55 -/
  | ldMemX (x : Nibble)
  /-- FX65 -/
  | ldXMem (x : Nibble)
  deriving DecidableEq, Repr

end Sys2Proof
end

