-- ==== Sys2Proof/WellFormed.lean ====
section
/-! DEFINITION. Which instruction terms name an instruction of the table. The operand widths are in the types; what is
left is the hole in 0NNN (spec/30_encoding.md rule R116). -/

namespace Sys2Proof

/-- The address part of 0NNN: the words 0x00E0 and 0x00EE are CLS and RET, never SYS (R116, R123). -/
def sysAddrOk (nnn : Addr) : Bool := nnn != 0x0E0#12 && nnn != 0x0EE#12

/-- A well-formed instruction: one that some word stands for. -/
def WellFormed : Instr → Bool
  | .sys nnn => sysAddrOk nnn
  | .cls | .ret | .jp _ | .call _ | .seImm _ _ | .sneImm _ _ | .seReg _ _ | .ldImm _ _ | .addImm _ _ | .ldReg _ _
  | .orReg _ _ | .andReg _ _ | .xorReg _ _ | .addReg _ _ | .sub _ _ | .shr _ _ | .subn _ _ | .shl _ _ | .sneReg _ _
  | .ldI _ | .jpV0 _ | .rnd _ _ | .drw _ _ _ | .skp _ | .sknp _ | .ldXDt _ | .ldXK _ | .ldDtX _ | .ldStX _ | .addIX _
  | .ldFX _ | .ldBX _ | .ldMemX _ | .ldXMem _ => true

end Sys2Proof
end

