-- ==== Sys2Proof/Decode.lean ====
section
/-! DEFINITION. The decoder, total on all 65536 words (spec/30_encoding.md rules R111 to R118), the encoder, and the
table of mask and match of rule R121. -/

namespace Sys2Proof

/-- Why a list of bytes is no instruction: the groups of unknown words of R118, or fewer than two bytes. -/
inductive Reject where
  /-- 5XYn with n ≠ 0 -/
  | unknownGroup5
  /-- 8XYn with n in 8, 9, A, B, C, D, F -/
  | unknownGroup8
  /-- 9XYn with n ≠ 0 -/
  | unknownGroup9
  /-- EXnn with nn neither 9E nor A1 -/
  | unknownGroupE
  /-- FXnn with nn none of the nine sub-opcodes -/
  | unknownGroupF
  /-- fewer than the two bytes of a word (never of a fetch, which always reads two) -/
  | truncated
  deriving DecidableEq, Repr

/-- Bits 15:12 (R112). -/
def fieldGroup (w : Word) : Nibble := w.extractLsb' 12 4
/-- Bits 11:8 (R112). -/
def fieldX (w : Word) : Nibble := w.extractLsb' 8 4
/-- Bits 7:4 (R112). -/
def fieldY (w : Word) : Nibble := w.extractLsb' 4 4
/-- Bits 3:0 (R112). -/
def fieldN (w : Word) : Nibble := w.extractLsb' 0 4
/-- Bits 7:0 (R112). -/
def fieldNN (w : Word) : Byte := w.extractLsb' 0 8
/-- Bits 11:0 (R112). -/
def fieldNNN (w : Word) : Addr := w.extractLsb' 0 12

/-- Group 0x8 subdivides on N alone (R115, conflict C4). -/
def decodeGroup8 (x y n : Nibble) : Except Reject Instr :=
  match n with
  | 0x0#4 => .ok (.ldReg x y)
  | 0x1#4 => .ok (.orReg x y)
  | 0x2#4 => .ok (.andReg x y)
  | 0x3#4 => .ok (.xorReg x y)
  | 0x4#4 => .ok (.addReg x y)
  | 0x5#4 => .ok (.sub x y)
  | 0x6#4 => .ok (.shr x y)
  | 0x7#4 => .ok (.subn x y)
  | 0xE#4 => .ok (.shl x y)
  | _ => .error .unknownGroup8

/-- Group 0xE subdivides on NN (R115). -/
def decodeGroupE (x : Nibble) (nn : Byte) : Except Reject Instr :=
  match nn with
  | 0x9E#8 => .ok (.skp x)
  | 0xA1#8 => .ok (.sknp x)
  | _ => .error .unknownGroupE

/-- Group 0xF subdivides on NN (R115). -/
def decodeGroupF (x : Nibble) (nn : Byte) : Except Reject Instr :=
  match nn with
  | 0x07#8 => .ok (.ldXDt x)
  | 0x0A#8 => .ok (.ldXK x)
  | 0x15#8 => .ok (.ldDtX x)
  | 0x18#8 => .ok (.ldStX x)
  | 0x1E#8 => .ok (.addIX x)
  | 0x29#8 => .ok (.ldFX x)
  | 0x33#8 => .ok (.ldBX x)
  | 0x55#8 => .ok (.ldMemX x)
  | 0x65#8 => .ok (.ldXMem x)
  | _ => .error .unknownGroupF

/-- `decode(w)` of R115. -/
def decode (w : Word) : Except Reject Instr :=
  let x := fieldX w
  let y := fieldY w
  let n := fieldN w
  let nn := fieldNN w
  let nnn := fieldNNN w
  match fieldGroup w with
  | 0x0#4 => if w = 0x00E0#16 then .ok .cls else if w = 0x00EE#16 then .ok .ret else .ok (.sys nnn)
  | 0x1#4 => .ok (.jp nnn)
  | 0x2#4 => .ok (.call nnn)
  | 0x3#4 => .ok (.seImm x nn)
  | 0x4#4 => .ok (.sneImm x nn)
  | 0x5#4 => if n = 0x0#4 then .ok (.seReg x y) else .error .unknownGroup5
  | 0x6#4 => .ok (.ldImm x nn)
  | 0x7#4 => .ok (.addImm x nn)
  | 0x8#4 => decodeGroup8 x y n
  | 0x9#4 => if n = 0x0#4 then .ok (.sneReg x y) else .error .unknownGroup9
  | 0xA#4 => .ok (.ldI nnn)
  | 0xB#4 => .ok (.jpV0 nnn)
  | 0xC#4 => .ok (.rnd x nn)
  | 0xD#4 => .ok (.drw x y n)
  | 0xE#4 => decodeGroupE x nn
  -- 0xF, the one value left
  | _ => decodeGroupF x nn

/-- `word = hi * 256 + lo` (R84, R111): fetch is big-endian. -/
def wordOfBytes (hi lo : Byte) : Word := hi ++ lo

/-- The byte at `PC` of a word: bits 15 to 8 (R84). -/
def highByte (w : Word) : Byte := w.extractLsb' 8 8
/-- The byte after it: bits 7 to 0 (R84). -/
def lowByte (w : Word) : Byte := w.extractLsb' 0 8

/-- Decode the first two bytes of a list, big-endian, and give the rest back (R110: always two bytes). -/
def decodeBytes : List Byte → Except Reject (Instr × List Byte)
  | hi :: lo :: rest =>
    match decode (wordOfBytes hi lo) with
    | .ok i => .ok (i, rest)
    | .error r => .error r
  | _ => .error .truncated

/-- The instruction of the first two of these bytes, if there is one. -/
def decodeBytes? (bs : List Byte) : Option Instr :=
  match decodeBytes bs with
  | .ok (i, _) => some i
  | .error _ => none

/-- The low `nbits` bits of `w` as one 16-bit word: the bits above `nbits` are 0, as the table numbers them. -/
def tableWord (nbits w : Nat) : Word := BitVec.ofNat 16 (w % 2 ^ nbits)

/-- What the decoder reads from the instruction whose table bits are `w`, its word laid out big-endian. -/
def decodeTableWord (nbits w : Nat) : Option Instr :=
  let v := tableWord nbits w
  decodeBytes? [highByte v, lowByte v]

/-- A word of the form gNNN. -/
def wordNNN (g : Nibble) (nnn : Addr) : Word := g ++ nnn
/-- A word of the form gXNN. -/
def wordXNN (g x : Nibble) (nn : Byte) : Word := g ++ (x ++ nn)
/-- A word of the form gXYn. -/
def wordXYN (g x y n : Nibble) : Word := g ++ (x ++ (y ++ n))

/-- The word of an instruction (the patterns of R121). -/
def encode : Instr → Word
  | .cls => 0x00E0#16
  | .ret => 0x00EE#16
  | .sys nnn => wordNNN 0x0 nnn
  | .jp nnn => wordNNN 0x1 nnn
  | .call nnn => wordNNN 0x2 nnn
  | .seImm x nn => wordXNN 0x3 x nn
  | .sneImm x nn => wordXNN 0x4 x nn
  | .seReg x y => wordXYN 0x5 x y 0x0
  | .ldImm x nn => wordXNN 0x6 x nn
  | .addImm x nn => wordXNN 0x7 x nn
  | .ldReg x y => wordXYN 0x8 x y 0x0
  | .orReg x y => wordXYN 0x8 x y 0x1
  | .andReg x y => wordXYN 0x8 x y 0x2
  | .xorReg x y => wordXYN 0x8 x y 0x3
  | .addReg x y => wordXYN 0x8 x y 0x4
  | .sub x y => wordXYN 0x8 x y 0x5
  | .shr x y => wordXYN 0x8 x y 0x6
  | .subn x y => wordXYN 0x8 x y 0x7
  | .shl x y => wordXYN 0x8 x y 0xE
  | .sneReg x y => wordXYN 0x9 x y 0x0
  | .ldI nnn => wordNNN 0xA nnn
  | .jpV0 nnn => wordNNN 0xB nnn
  | .rnd x nn => wordXNN 0xC x nn
  | .drw x y n => wordXYN 0xD x y n
  | .skp x => wordXNN 0xE x 0x9E
  | .sknp x => wordXNN 0xE x 0xA1
  | .ldXDt x => wordXNN 0xF x 0x07
  | .ldXK x => wordXNN 0xF x 0x0A
  | .ldDtX x => wordXNN 0xF x 0x15
  | .ldStX x => wordXNN 0xF x 0x18
  | .addIX x => wordXNN 0xF x 0x1E
  | .ldFX x => wordXNN 0xF x 0x29
  | .ldBX x => wordXNN 0xF x 0x33
  | .ldMemX x => wordXNN 0xF x 0x55
  | .ldXMem x => wordXNN 0xF x 0x65

/-- The match and mask of an instruction's row in the opcode map (R121). -/
structure OpcodeRow where
  bits : Word
  mask : Word
  deriving DecidableEq, Repr

/-- The row of the opcode map (R121) that an instruction belongs to. -/
def opcodeRow : Instr → OpcodeRow
  | .cls => ⟨0x00E0, 0xFFFF⟩
  | .ret => ⟨0x00EE, 0xFFFF⟩
  | .sys _ => ⟨0x0000, 0xF000⟩
  | .jp _ => ⟨0x1000, 0xF000⟩
  | .call _ => ⟨0x2000, 0xF000⟩
  | .seImm _ _ => ⟨0x3000, 0xF000⟩
  | .sneImm _ _ => ⟨0x4000, 0xF000⟩
  | .seReg _ _ => ⟨0x5000, 0xF00F⟩
  | .ldImm _ _ => ⟨0x6000, 0xF000⟩
  | .addImm _ _ => ⟨0x7000, 0xF000⟩
  | .ldReg _ _ => ⟨0x8000, 0xF00F⟩
  | .orReg _ _ => ⟨0x8001, 0xF00F⟩
  | .andReg _ _ => ⟨0x8002, 0xF00F⟩
  | .xorReg _ _ => ⟨0x8003, 0xF00F⟩
  | .addReg _ _ => ⟨0x8004, 0xF00F⟩
  | .sub _ _ => ⟨0x8005, 0xF00F⟩
  | .shr _ _ => ⟨0x8006, 0xF00F⟩
  | .subn _ _ => ⟨0x8007, 0xF00F⟩
  | .shl _ _ => ⟨0x800E, 0xF00F⟩
  | .sneReg _ _ => ⟨0x9000, 0xF00F⟩
  | .ldI _ => ⟨0xA000, 0xF000⟩
  | .jpV0 _ => ⟨0xB000, 0xF000⟩
  | .rnd _ _ => ⟨0xC000, 0xF000⟩
  | .drw _ _ _ => ⟨0xD000, 0xF000⟩
  | .skp _ => ⟨0xE09E, 0xF0FF⟩
  | .sknp _ => ⟨0xE0A1, 0xF0FF⟩
  | .ldXDt _ => ⟨0xF007, 0xF0FF⟩
  | .ldXK _ => ⟨0xF00A, 0xF0FF⟩
  | .ldDtX _ => ⟨0xF015, 0xF0FF⟩
  | .ldStX _ => ⟨0xF018, 0xF0FF⟩
  | .addIX _ => ⟨0xF01E, 0xF0FF⟩
  | .ldFX _ => ⟨0xF029, 0xF0FF⟩
  | .ldBX _ => ⟨0xF033, 0xF0FF⟩
  | .ldMemX _ => ⟨0xF055, 0xF0FF⟩
  | .ldXMem _ => ⟨0xF065, 0xF0FF⟩

/-- The two bytes of an instruction in memory order (R84). -/
def encodeBytes (i : Instr) : List Byte := [highByte (encode i), lowByte (encode i)]

end Sys2Proof
end

