-- ==== Sys2Proof/Config.lean ====
section
/-! DEFINITION. The parameters of the core (spec/00_scope.md rule R10) and its one free value, the random byte. -/

namespace Sys2Proof

/-- `STACK_POLICY`: how a call on a full stack and a return on an empty one are handled (R383, decision D8). -/
inductive StackPolicy where
  /-- The core stops in `Faulted` (R384); the default. -/
  | fatal
  /-- The call or return acts as a no-op (R385). -/
  | saturate
  deriving DecidableEq, Repr

/-- The named parameters a model takes (R10). They are configuration, not state (R30): no operation writes them. Values
that break R453 or R428 cannot be built (log 18). -/
structure Config where
  /-- `STACK_POLICY` (R383). -/
  stackPolicy : StackPolicy
  /-- `FONT_BASE` (R91), a memory address bounded by R453. -/
  fontBase : Addr
  /-- `FONT_DATA`: 16 glyphs of 5 bytes (R452). -/
  fontData : Vector Byte 80
  /-- `RATE`: instructions per second, a non-negative integer (R428). -/
  rate : Nat
  /-- `FONT_BASE + 80 <= 0x200`: the font lies wholly below the ROM load address (R453). -/
  fontBelowRom : fontBase.toNat + 80 ≤ 0x200
  deriving DecidableEq, Repr

/-- The random bytes of CXNN (R242, R408, K1): the `n`-th draw has the free value `randByte n`, under no law.
DESIGN CHOICE (log 3), safe: it has no body, so nothing can be proved about its value. -/
opaque Config.randByte : Nat → Byte

end Sys2Proof
end

