-- ==== Sys2Proof/Machine/Font.lean ====
section
/-! DEFINITION. The default parameters of the core (spec/00_scope.md rule R10), the font table among them
(spec/70_reset_and_hazards.md rule R452). -/

namespace Sys2Proof.Machine

/-- `FONT_DATA`, default: 16 glyphs of 5 bytes, digits 0 to F (R452).
PRESUMED (log 2), unsafe for pixel results: the spec supplies the bytes from general knowledge (G8). -/
def defaultFont : Vector Byte 80 :=
  #v[0xF0, 0x90, 0x90, 0x90, 0xF0,
     0x20, 0x60, 0x20, 0x20, 0x70,
     0xF0, 0x10, 0xF0, 0x80, 0xF0,
     0xF0, 0x10, 0xF0, 0x10, 0xF0,
     0x90, 0x90, 0xF0, 0x10, 0x10,
     0xF0, 0x80, 0xF0, 0x10, 0xF0,
     0xF0, 0x80, 0xF0, 0x90, 0xF0,
     0xF0, 0x10, 0x20, 0x40, 0x40,
     0xF0, 0x90, 0xF0, 0x90, 0xF0,
     0xF0, 0x90, 0xF0, 0x10, 0xF0,
     0xF0, 0x90, 0xF0, 0x90, 0x90,
     0xE0, 0x90, 0xE0, 0x90, 0xE0,
     0xF0, 0x80, 0x80, 0x80, 0xF0,
     0xE0, 0x90, 0x90, 0x90, 0xE0,
     0xF0, 0x80, 0xF0, 0x80, 0xF0,
     0xF0, 0x80, 0xF0, 0x80, 0x80]

/-- The default of every parameter (R10): `fatal`, 0x050, the table of R452, 500 instructions a second.
PRESUMED where the spec takes it from general knowledge (log 2). -/
def defaultConfig : Config where
  stackPolicy := .fatal
  fontBase := 0x050
  fontData := defaultFont
  rate := 500
  fontBelowRom := by decide

end Sys2Proof.Machine
end

