-- ==== Sys2Proof/Machine/State.lean ====
section
/-! DEFINITION. The state of the core (spec/10_state.md rule R30), the reasons an operation can stop, and reset
(spec/70_reset_and_hazards.md rule R450). -/

namespace Sys2Proof.Machine

/-- The conditions of R381; their code numbers are `Cause.code` (Machine/Ops.lean). -/
inductive Cause where
  /-- code 1: a step fetched an unknown word; never stops execution (R382) -/
  | unknownOpcode
  /-- code 2: 2NNN with `SP = 16` (R184) -/
  | stackOverflow
  /-- code 3: 00EE with `SP = 0` (R181) -/
  | stackUnderflow
  /-- code 4: the host operation `load` past the end of memory (R410) -/
  | romLoadError
  deriving DecidableEq, Repr

/-- The run state `RS` (R44). `waitingForKey x` is the wait-for-key latch with its target register. -/
inductive RunState where
  | running
  | waitingForKey (x : Nibble)
  | faulted (cause : Cause)
  deriving DecidableEq, Repr

/-- What one `step()` returns (R150, R159): the `unknown_opcode` bit and the `fault` cause or none. -/
structure StepOut where
  unknownOpcode : Bool
  fault : Option Cause
  deriving DecidableEq, Repr

/-- The outputs a step starts from (R150): `unknown_opcode <- 0; fault <- none`. -/
def StepOut.none : StepOut := ⟨false, Option.none⟩

/-- `MEM` as the bytes that differ from what reset left there: (address, byte) pairs, addresses strictly rising, no
pair equal to what its address reads as when unlisted (`Memory.wf`, Machine/Memory.lean). -/
abbrev Memory := List Host.Cell

/-- `DISP`: 32 rows of 64 one-bit pixels; the pixel of index `r * 64 + c` is bit `c` of row `r` (R45, log 12). -/
abbrev Display := Vector (BitVec 64) 32

/-- The state of the core: the sixteen items of R30, and three fields of the model's own (`cfg`, `draws`, `out`). -/
structure State where
  /-- MODEL's own: the parameters of R10, which no operation writes. DESIGN CHOICE (log 1), safe: statements hold
  for every value of it. -/
  cfg : Config
  /-- `MEM` (R80) -/
  mem : Memory
  /-- `V[0]` to `V[15]` (R31) -/
  v : Vector Byte 16
  /-- `I` (R35) -/
  i : Word
  /-- `PC` (R36) -/
  pc : Word
  /-- `S[0]` to `S[15]` (R40) -/
  stack : Vector Word 16
  /-- `SP`, 0 to 16 (R41, log 7) -/
  sp : Fin 17
  /-- `DT` (R42) -/
  dt : Byte
  /-- `ST` (R42) -/
  st : Byte
  /-- `KEY[0]` to `KEY[15]`, true is pressed (R43) -/
  key : Vector Bool 16
  /-- `DISP` (R45) -/
  disp : Display
  /-- `RS` (R44) -/
  rs : RunState
  /-- `REDRAW` (R46) -/
  redraw : Bool
  /-- `SND_START` (R47) -/
  sndStart : Bool
  /-- `TONE` (R48) -/
  tone : Bool
  /-- `ACC`, 0 to 59 sixtieths of an instruction (R49, log 7) -/
  acc : Fin 60
  /-- `FAULT_PC` (R50) -/
  faultPc : Word
  /-- MODEL's own: how many random bytes CXNN has drawn. DESIGN CHOICE (log 3), safe. -/
  draws : Nat
  /-- MODEL's own: what the latest `step()` returned (R159). DESIGN CHOICE (log 4), safe. -/
  out : StepOut
  deriving DecidableEq, Repr

/-- Why the machine stops with a fault. No `step` ever does: the spec's stack faults are next states (R384, R385). -/
inductive Fault where
  /-- Raised by the host operation `load` when `offset + len > 4096` (R386, R410: fatal at startup). Safe: the run
  stops where the spec says no frame may follow. -/
  | romLoadError
  deriving DecidableEq, Repr

/-- Why the machine has no meaning for an instruction or an operation. -/
inductive Refusal where
  /-- Raised by an arm of `exec` for an instruction that has no meaning yet; no arm is left so. Safe. -/
  | notModelled (mnemonic : String)
  /-- Raised by `deliver_key` and `frame` for a key index outside 0 to 15 (R413: a model refuses it). Safe. -/
  | keyIndexOutOfRange
  /-- Raised by a session's `load` after the one load of the boot sequence (R413, R455, K11). Safe. -/
  | loadAfterBoot
  /-- Raised by a session's `frame` before the boot sequence's load (R455, log 9). Safe. -/
  | frameBeforeLoad
  deriving DecidableEq, Repr

/-- The outcome of a step of this core. -/
abbrev Result := Host.Outcome State Fault Refusal

/-- `reset()` of R450, for any value of the parameters. `MEM` lists nothing: an unlisted byte reads as reset leaves it. -/
def State.resetWith (cfg : Config) : State where
  cfg := cfg
  mem := []
  v := Vector.replicate 16 0
  i := 0
  pc := 0x200
  stack := Vector.replicate 16 0
  sp := 0
  dt := 0
  st := 0
  key := Vector.replicate 16 false
  disp := Vector.replicate 32 0
  rs := .running
  redraw := false
  sndStart := false
  tone := false
  acc := 0
  faultPc := 0
  draws := 0
  out := StepOut.none

/-- The machine right after reset with the default parameters (R450, R10). -/
def State.reset : State := State.resetWith defaultConfig

end Sys2Proof.Machine
end

