-- ==== Sys2Proof/Machine/Memory.lean ====
section
/-! DEFINITION. `MEM`: 4096 bytes (spec/20_memory.md rules R80 to R95), as a canonical list of (address, byte) pairs. -/

namespace Sys2Proof.Machine

/-- What reset leaves at address `a` (R450): `FONT_DATA` at `FONT_BASE`, 0 elsewhere. An unlisted address reads as
this. DEDUCED (log 11), safe: it is the spec's own reset contents. -/
def unlistedByte (cfg : Config) (a : Nat) : Byte :=
  if h : cfg.fontBase.toNat ≤ a ∧ a < cfg.fontBase.toNat + 80 then
    cfg.fontData[a - cfg.fontBase.toNat]
  else 0

/-- The listed byte of an address, if it is listed. -/
def Memory.find : Memory → Nat → Option Byte
  | [], _ => none
  | (k, b) :: m, a => if k = a then some b else Memory.find m a

/-- The list without an address. -/
def Memory.erase : Memory → Nat → Memory
  | [], _ => []
  | (k, b) :: m, a => if k = a then Memory.erase m a else (k, b) :: Memory.erase m a

/-- The list with a byte at an address, addresses kept rising. -/
def Memory.insert : Memory → Nat → Byte → Memory
  | [], a, b => [(a, b)]
  | (k, c) :: m, a, b =>
    if a < k then (a, b) :: (k, c) :: m
    else if k = a then (a, b) :: m
    else (k, c) :: Memory.insert m a b

/-- `MemRead(a, 1)` (R16). -/
def Memory.read (cfg : Config) (m : Memory) (a : Addr) : Byte :=
  (Memory.find m a.toNat).getD (unlistedByte cfg a.toNat)

/-- `MemWrite(a, 1, b)` (R16): writing what an unlisted address reads as removes the entry. -/
def Memory.write (cfg : Config) (m : Memory) (a : Addr) (b : Byte) : Memory :=
  if b = unlistedByte cfg a.toNat then Memory.erase m a.toNat else Memory.insert m a.toNat b

/-- Every listed address is above `lo`, and the addresses rise strictly. -/
def Memory.risesFrom : Nat → Memory → Bool
  | _, [] => true
  | lo, (k, _) :: m => decide (lo ≤ k) && Memory.risesFrom (k + 1) m

/-- The canonical form: addresses strictly rising and below 4096, no entry equal to what its address reads as when
unlisted. -/
def Memory.wf (cfg : Config) (m : Memory) : Bool :=
  Memory.risesFrom 0 m && m.all (fun c => decide (c.1 < 4096) && decide (c.2 ≠ unlistedByte cfg c.1))

end Sys2Proof.Machine
end

