-- ==== Sys2Proof/Machine/Ops.lean ====
section
/-! DEFINITION. The named operations over the state: memory, registers, program counter, call stack, instruction
fetch, the two ways a stack condition is handled (the core's only exceptions) and the return from a call. -/

namespace Sys2Proof.Machine

/-- `mask12(v) = v mod 4096` (R14). -/
def mask12 (v : Word) : Addr := v.setWidth 12

/-- An 8-bit value as 16 bits, zero-extended (R14 `zext`). -/
def zext16 (b : Byte) : Word := b.setWidth 16

/-! ### Memory and registers -/

/-- `MemRead(a, 1)` (R16). -/
def State.readMem (s : State) (a : Addr) : Byte := Memory.read s.cfg s.mem a

/-- `MemWrite(a, 1, b)` (R16). -/
def State.writeMem (s : State) (a : Addr) (b : Byte) : State :=
  { s with mem := Memory.write s.cfg s.mem a b }

/-- `V[x]` (R15, R31). -/
def State.getV (s : State) (x : Nibble) : Byte := s.v[x.toNat]'x.isLt

/-- `V[x] <- b` (R15, R31). -/
def State.setV (s : State) (x : Nibble) (b : Byte) : State :=
  { s with v := s.v.set x.toNat b x.isLt }

/-- `I <- a`; every write to `I` is a 12-bit value (R35). -/
def State.setI (s : State) (a : Addr) : State := { s with i := a.setWidth 16 }

/-- `PC <- a`; every write to `PC` is a 12-bit value (R38). -/
def State.setPc (s : State) (a : Addr) : State := { s with pc := a.setWidth 16 }

/-- `DT <- b` (R42). -/
def State.setDt (s : State) (b : Byte) : State := { s with dt := b }

/-- `ST <- b` (R42). -/
def State.setSt (s : State) (b : Byte) : State := { s with st := b }

/-- `SND_START <- b` (R47). -/
def State.setSndStart (s : State) (b : Bool) : State := { s with sndStart := b }

/-- `RS <- r` (R44). -/
def State.setRs (s : State) (r : RunState) : State := { s with rs := r }

/-- `DISP <- d` (R45). -/
def State.setDisp (s : State) (d : Display) : State := { s with disp := d }

/-- `REDRAW <- 1` (R46). -/
def State.requestRedraw (s : State) : State := { s with redraw := true }

/-- `KEY[k]` (R43). -/
def State.getKey (s : State) (k : Nibble) : Bool := s.key[k.toNat]'k.isLt

/-- `KEY[k] <- p` (R43). -/
def State.setKey (s : State) (k : Nibble) (p : Bool) : State :=
  { s with key := s.key.set k.toNat p k.isLt }

/-- The step outputs become `o` (R159). -/
def State.setOut (s : State) (o : StepOut) : State := { s with out := o }

/-- One more random byte has been drawn (R242). -/
def State.countDraw (s : State) : State := { s with draws := s.draws + 1 }

/-! ### Program counter -/

/-- `mask12(PC + k)`. -/
def State.pcPlus (s : State) (k : Word) : Addr := mask12 (s.pc + k)

/-- The default update `PC <- mask12(PC + 2)` (R158). -/
def State.advance (s : State) : State := s.setPc (s.pcPlus 2)

/-- A skip: `PC <- mask12(PC + 4)` when the condition holds, else `mask12(PC + 2)` (R158). -/
def State.skipIf (s : State) (c : Bool) : State := s.setPc (if c then s.pcPlus 4 else s.pcPlus 2)

/-- The word at `PC`, high byte first; the second byte is read at `mask12(PC + 1)` (R84, R85). -/
def State.fetchWord (s : State) : Word :=
  wordOfBytes (s.readMem (s.pcPlus 0)) (s.readMem (s.pcPlus 1))

/-! ### Taking an exception: the stack conditions -/

/-- `fatal(c)` of R384: `FAULT_PC <- PC`, `RS <- Faulted(c)`, `fault <- c`; everything else is as before. -/
def State.fatal (s : State) (c : Cause) : State :=
  { s with faultPc := s.pc, rs := .faulted c, out := { s.out with fault := some c } }

/-- `saturate(c)` of R385: the instruction acts as a no-op and the cause is reported. -/
def State.saturate (s : State) (c : Cause) : State :=
  ({ s with out := { s.out with fault := some c } }).advance

/-- A stack condition, handled as `STACK_POLICY` says (R383). -/
def State.stackCondition (s : State) (c : Cause) : State :=
  match s.cfg.stackPolicy with
  | .fatal => s.fatal c
  | .saturate => s.saturate c

/-- The report of an unknown word: `PC <- mask12(PC + 2)`, `unknown_opcode <- 1` (R157). -/
def State.reportUnknown (s : State) : State :=
  ({ s with out := { s.out with unknownOpcode := true } }).advance

/-! ### Call stack -/

/-- 2NNN (R184): a push and a jump, or StackOverflow when `SP = 16`. -/
def State.callTo (s : State) (target : Addr) : State :=
  if h : s.sp.val < 16 then
    ({ s with
        stack := s.stack.set s.sp.val ((s.pcPlus 2).setWidth 16) h
        sp := ⟨s.sp.val + 1, Nat.succ_lt_succ h⟩ }).setPc target
  else s.stackCondition .stackOverflow

/-- 00EE (R181): a pop into `PC`, or StackUnderflow when `SP = 0`; the popped slot keeps its value (R40). -/
def State.returnFromCall (s : State) : State :=
  if h : 0 < s.sp.val then
    ({ s with sp := ⟨s.sp.val - 1, Nat.lt_of_le_of_lt (Nat.sub_le _ _) s.sp.isLt⟩ }).setPc
      (mask12 (s.stack[s.sp.val - 1]'(by have := s.sp.isLt; omega)))
  else s.stackCondition .stackUnderflow

/-! ### Cause codes -/

/-- The code numbers of R381. -/
def Cause.code : Cause → Nat
  | .unknownOpcode => 1
  | .stackOverflow => 2
  | .stackUnderflow => 3
  | .romLoadError => 4

/-- Code 0 is none (R381). -/
def causeCode : Option Cause → Nat
  | none => 0
  | some c => c.code

end Sys2Proof.Machine
end

