-- ==== Sys2Proof/Machine/Flags.lean ====
section
/-! DEFINITION. The values the flag register VF takes (spec/10_state.md rules R33 and R34, spec/42_alu.md rule R244). -/

namespace Sys2Proof.Machine

/-- VF is `V[15]` (R33). -/
def flagReg : Nibble := 0xF

/-- A flag value: 1 or 0. -/
def flagOf (c : Bool) : Byte := if c then 1 else 0

/-- 8XY4: 1 if the exact sum is over 255 (R237). -/
def carryFlag (a b : Byte) : Byte := flagOf (decide (255 < a.toNat + b.toNat))

/-- 8XY5 and 8XY7: 1 if the minuend is strictly greater (R238, R240, conflict C2). -/
def noBorrowFlag (a b : Byte) : Byte := flagOf (decide (b.toNat < a.toNat))

/-- 8XY6: bit 0 of the original value (R239). -/
def lowBitFlag (a : Byte) : Byte := flagOf (a.getLsbD 0)

/-- 8XYE: bit 7 of the original value (R241). -/
def highBitFlag (a : Byte) : Byte := flagOf (a.getLsbD 7)

/-- The result to `V[X]` first, the flag to VF second, so that with X = F the flag remains (R244, R34). -/
def State.setResultFlag (s : State) (x : Nibble) (result flag : Byte) : State :=
  (s.setV x result).setV flagReg flag

end Sys2Proof.Machine
end

