-- ==== Sys2Proof/Machine/Alu.lean ====
section
/-! DEFINITION. Register loads and the arithmetic-logic unit (spec/42_alu.md rules R230 to R244). Results are 8-bit and
wrap (R230); operands are read before any write (R244). -/

namespace Sys2Proof.Machine

/-- 6XNN (R231). -/
def execLdImm (x : Nibble) (nn : Byte) (s : State) : Result := .next (s.setV x nn).advance

/-- 7XNN, no flag (R232). -/
def execAddImm (x : Nibble) (nn : Byte) (s : State) : Result := .next (s.setV x (s.getV x + nn)).advance

/-- 8XY0 (R233). -/
def execLdReg (x y : Nibble) (s : State) : Result := .next (s.setV x (s.getV y)).advance

/-- 8XY1, VF not reset (R234, decision D13). -/
def execOrReg (x y : Nibble) (s : State) : Result := .next (s.setV x (s.getV x ||| s.getV y)).advance

/-- 8XY2, VF not reset (R235, decision D13). -/
def execAndReg (x y : Nibble) (s : State) : Result := .next (s.setV x (s.getV x &&& s.getV y)).advance

/-- 8XY3, VF not reset (R236, decision D13). -/
def execXorReg (x y : Nibble) (s : State) : Result := .next (s.setV x (s.getV x ^^^ s.getV y)).advance

/-- 8XY4 (R237). -/
def execAddReg (x y : Nibble) (s : State) : Result :=
  .next (s.setResultFlag x (s.getV x + s.getV y) (carryFlag (s.getV x) (s.getV y))).advance

/-- 8XY5 (R238). -/
def execSub (x y : Nibble) (s : State) : Result :=
  .next (s.setResultFlag x (s.getV x - s.getV y) (noBorrowFlag (s.getV x) (s.getV y))).advance

/-- 8XY6, Y ignored (R239). -/
def execShr (x _y : Nibble) (s : State) : Result :=
  .next (s.setResultFlag x (s.getV x >>> 1) (lowBitFlag (s.getV x))).advance

/-- 8XY7 (R240). -/
def execSubn (x y : Nibble) (s : State) : Result :=
  .next (s.setResultFlag x (s.getV y - s.getV x) (noBorrowFlag (s.getV y) (s.getV x))).advance

/-- 8XYE, Y ignored (R241). -/
def execShl (x _y : Nibble) (s : State) : Result :=
  .next (s.setResultFlag x (s.getV x <<< 1) (highBitFlag (s.getV x))).advance

/-- CXNN: a free byte under the mask NN (R242); the draw is counted, so the next execution has a byte of its own. -/
def execRnd (x : Nibble) (nn : Byte) (s : State) : Result :=
  .next ((s.setV x (Config.randByte s.draws &&& nn)).countDraw).advance

end Sys2Proof.Machine
end

