-- ==== Sys2Proof/Machine/Operands.lean ====
section
/-! DEFINITION. The operand forms: the one addressing mode (spec/43_index_memory.md rule R280), pixels
(spec/44_display.md rule R320), key indices (spec/45_keys_timers.md rule R350), font glyphs and decimal digits. -/

namespace Sys2Proof.Machine

/-- The effective address `mask12(I + k)` (R280). -/
def State.addrI (s : State) (k : Nat) : Addr := mask12 (s.i + BitVec.ofNat 16 k)

/-- The byte at `mask12(I + k)`. -/
def State.readAtI (s : State) (k : Nat) : Byte := s.readMem (s.addrI k)

/-- `MemWrite(mask12(I + k), 1, b)`. -/
def State.writeAtI (s : State) (k : Nat) (b : Byte) : State := s.writeMem (s.addrI k) b

/-- `mask12(FONT_BASE + b * 5)`, the glyph address of FX29, with the whole 8-bit value (R283, decision D17). -/
def State.glyphAddr (s : State) (b : Byte) : Addr :=
  mask12 (s.cfg.fontBase.setWidth 16 + zext16 b * 5)

/-- The key that EX9E and EXA1 test: `V[X] & 0xF` (R350). -/
def keyIndex (b : Byte) : Nibble := b.setWidth 4

/-- The decimal digits of a byte: hundreds, tens, ones (R284). -/
def bcdHundreds (b : Byte) : Byte := BitVec.ofNat 8 (b.toNat / 100)
/-- The tens digit (R284). -/
def bcdTens (b : Byte) : Byte := BitVec.ofNat 8 (b.toNat / 10 % 10)
/-- The ones digit (R284). -/
def bcdOnes (b : Byte) : Byte := BitVec.ofNat 8 (b.toNat % 10)

/-- The index in `DISP` of the pixel at column `c` and row `r`, each reduced modulo the display's dimensions (R320,
R322). -/
def pixelIndex (c r : Nat) : Fin 2048 := ⟨(r % 32) * 64 + c % 64, by omega⟩

/-- `DISP[idx]` (R45). -/
def Display.pixel (d : Display) (idx : Fin 2048) : Bool :=
  (d[idx.val / 64]'(by omega)).getLsbD (idx.val % 64)

/-- `DISP[idx] <- p` (R45). -/
def Display.setPixel (d : Display) (idx : Fin 2048) (p : Bool) : Display :=
  let row := d[idx.val / 64]'(by omega)
  let bit := BitVec.twoPow 64 (idx.val % 64)
  d.set (idx.val / 64) (if p then row ||| bit else row &&& ~~~bit) (by omega)

/-- The display with every pixel 0 (R321). -/
def Display.blank : Display := Vector.replicate 32 0

/-- Bit `col` of a sprite byte from the left: bit 7 is the leftmost column (R324).
PRESUMED (log 12), unsafe: the spec takes the order from general knowledge (D19). -/
def spriteBit (b : Byte) (col : Nat) : Bool := (b >>> (7 - col)).getLsbD 0

end Sys2Proof.Machine
end

