-- ==== Sys2Proof/Machine/ControlFlow.lean ====
section
/-! DEFINITION. Control flow and skips (spec/41_control_flow.md rules R181 to R189). -/

namespace Sys2Proof.Machine

/-- 00EE (R181). -/
def execRet (s : State) : Result := .next s.returnFromCall

/-- 0NNN, a no-op (R182, R116). -/
def execSys (_nnn : Addr) (s : State) : Result := .next s.advance

/-- 1NNN (R183). -/
def execJp (nnn : Addr) (s : State) : Result := .next (s.setPc nnn)

/-- 2NNN (R184). -/
def execCall (nnn : Addr) (s : State) : Result := .next (s.callTo nnn)

/-- 3XNN (R185). -/
def execSeImm (x : Nibble) (nn : Byte) (s : State) : Result := .next (s.skipIf (s.getV x == nn))

/-- 4XNN (R186). -/
def execSneImm (x : Nibble) (nn : Byte) (s : State) : Result := .next (s.skipIf (s.getV x != nn))

/-- 5XY0 (R187). -/
def execSeReg (x y : Nibble) (s : State) : Result := .next (s.skipIf (s.getV x == s.getV y))

/-- 9XY0 (R188). -/
def execSneReg (x y : Nibble) (s : State) : Result := .next (s.skipIf (s.getV x != s.getV y))

/-- BNNN: `PC <- mask12(NNN + V[0])` (R189). -/
def execJpV0 (nnn : Addr) (s : State) : Result :=
  .next (s.setPc (mask12 (nnn.setWidth 16 + zext16 (s.getV 0))))

end Sys2Proof.Machine
end

