-- ==== Sys2Proof/Machine/DisplayOps.lean ====
section
/-! DEFINITION. The display instructions (spec/44_display.md rules R320 to R324). -/

namespace Sys2Proof.Machine

/-- What a draw changes as it goes: the display, and whether a lit pixel has been cleared (R322). -/
structure Canvas where
  disp : Display
  hit : Bool
  deriving DecidableEq, Repr

/-- One sprite bit that is 1: a lit pixel is cleared and is a collision, an unlit one is lit (R322). -/
def drawPixel (c : Canvas) (idx : Fin 2048) : Canvas :=
  if Display.pixel c.disp idx then ⟨Display.setPixel c.disp idx false, true⟩
  else ⟨Display.setPixel c.disp idx true, c.hit⟩

/-- The eight columns of one sprite row; a bit that is 0 never alters its pixel (R322). -/
def drawRow (ox row : Nat) (b : Byte) (c : Canvas) : Canvas :=
  (List.range 8).foldl (fun c col => if spriteBit b col then drawPixel c (pixelIndex (ox + col) row) else c) c

/-- The `n` rows of the sprite at `mask12(I)`, drawn with its origin at column `ox` and row `oy` (R322). -/
def State.drawSprite (s : State) (ox oy n : Nat) : Canvas :=
  (List.range n).foldl (fun c row => drawRow ox (oy + row) (s.readAtI row) c) ⟨s.disp, false⟩

/-- 00E0, VF unchanged (R321). -/
def execCls (s : State) : Result := .next ((s.setDisp Display.blank).requestRedraw).advance

/-- DXYN: the origin is `(V[X] mod 64, V[Y] mod 32)`, read before VF is written (R322, conflict C1, decision D18);
VF is 1 exactly when a lit pixel was cleared. -/
def execDrw (x y n : Nibble) (s : State) : Result :=
  let c := s.drawSprite ((s.getV x).toNat % 64) ((s.getV y).toNat % 32) n.toNat
  .next (((s.setDisp c.disp).setV flagReg (flagOf c.hit)).requestRedraw).advance

end Sys2Proof.Machine
end

