-- ==== Sys2Proof/Machine/IndexMemory.lean ====
section
/-! DEFINITION. The index register and memory transfers (spec/43_index_memory.md rules R280 to R286). No transfer
changes `I` (R280, decision D14). -/

namespace Sys2Proof.Machine

/-- `for k in 0 .. x: MemWrite(mask12(I + k), 1, V[k])` (R285). -/
def State.storeRegs (s : State) (x : Nibble) : State :=
  (List.range (x.toNat + 1)).foldl (fun t k => t.writeAtI k (t.getV (BitVec.ofNat 4 k))) s

/-- `for k in 0 .. x: V[k] <- MemRead(mask12(I + k), 1)` (R286). -/
def State.loadRegs (s : State) (x : Nibble) : State :=
  (List.range (x.toNat + 1)).foldl (fun t k => t.setV (BitVec.ofNat 4 k) (t.readAtI k)) s

/-- The three digit writes of FX33, hundreds first (R284). -/
def State.storeBcd (s : State) (b : Byte) : State :=
  ((s.writeAtI 0 (bcdHundreds b)).writeAtI 1 (bcdTens b)).writeAtI 2 (bcdOnes b)

/-- ANNN (R281). -/
def execLdI (nnn : Addr) (s : State) : Result := .next (s.setI nnn).advance

/-- FX1E, VF not written (R282, decision D38). -/
def execAddIX (x : Nibble) (s : State) : Result :=
  .next (s.setI (mask12 (s.i + zext16 (s.getV x)))).advance

/-- FX29 (R283). -/
def execLdFX (x : Nibble) (s : State) : Result := .next (s.setI (s.glyphAddr (s.getV x))).advance

/-- FX33 (R284). -/
def execLdBX (x : Nibble) (s : State) : Result := .next (s.storeBcd (s.getV x)).advance

/-- FX55 (R285). -/
def execLdMemX (x : Nibble) (s : State) : Result := .next (s.storeRegs x).advance

/-- FX65 (R286). -/
def execLdXMem (x : Nibble) (s : State) : Result := .next (s.loadRegs x).advance

end Sys2Proof.Machine
end

