-- ==== Sys2Proof/Machine/KeysTimers.lean ====
section
/-! DEFINITION. Key and timer instructions (spec/45_keys_timers.md rules R350 to R356). -/

namespace Sys2Proof.Machine

/-- EX9E (R351). -/
def execSkp (x : Nibble) (s : State) : Result := .next (s.skipIf (s.getKey (keyIndex (s.getV x))))

/-- EXA1 (R352). -/
def execSknp (x : Nibble) (s : State) : Result := .next (s.skipIf (!s.getKey (keyIndex (s.getV x))))

/-- FX07 (R353). -/
def execLdXDt (x : Nibble) (s : State) : Result := .next (s.setV x s.dt).advance

/-- FX0A: the latch is set; `PC` and every register are unchanged (R354). `deliver_key` resolves it (R412). -/
def execLdXK (x : Nibble) (s : State) : Result := .next (s.setRs (.waitingForKey x))

/-- FX15 (R355). -/
def execLdDtX (x : Nibble) (s : State) : Result := .next (s.setDt (s.getV x)).advance

/-- FX18: `SND_START` is set when `ST` goes from 0 to nonzero (R356). -/
def execLdStX (x : Nibble) (s : State) : Result :=
  let b := s.getV x
  .next ((s.setSndStart (s.sndStart || (s.st == 0 && b != 0))).setSt b).advance

end Sys2Proof.Machine
end

