-- ==== Sys2Proof/Machine/Step.lean ====
section
/-! DEFINITION. The operation `step()` (spec/40_step_engine.md rules R150 to R161), and the placing of a word where the
next step fetches. -/

namespace Sys2Proof.Machine

/-- `step()` of R150: the outputs are cleared; in `Running` the word at `PC` is fetched, decoded and executed, an
unknown word reported; in `WaitingForKey` nothing changes; in `Faulted` the cause is returned again. -/
def step (s : State) : Host.Outcome State Fault Refusal :=
  let s0 := s.setOut StepOut.none
  match s.rs with
  | .running =>
    match decode s0.fetchWord with
    | .ok i => exec i s0
    | .error _ => .next s0.reportUnknown
  | .waitingForKey _ => .next s0
  | .faulted c => .next (s.setOut ⟨false, some c⟩)

/-- The instruction whose table bits are `w`, stored big-endian at `PC` and `mask12(PC + 1)`, the run state
`Running`, in which alone a step fetches (log 8). -/
def State.withFetchWord (s : State) (nbits w : Nat) : State :=
  let v := tableWord nbits w
  ((s.writeMem (s.pcPlus 0) (highByte v)).writeMem (s.pcPlus 1) (lowByte v)).setRs .running

end Sys2Proof.Machine
end

