-- ==== Sys2Proof/Machine/HostOps.lean ====
section
/-! DEFINITION. The host operations `load`, `deliver_key` and `tick_timers` (spec/60_exceptions.md rules R395 to R413). -/

namespace Sys2Proof.Machine

/-- `MEM[a + j] <- bytes[j]` for each j (R410). -/
def State.storeBytes (s : State) (a : Nat) : List Byte → State
  | [] => s
  | b :: bs => (s.writeMem (BitVec.ofNat 12 a) b).storeBytes (a + 1) bs

/-- `load(bytes, offset)` (R410): `RomLoadError`, with nothing changed, when the bytes do not fit. -/
def load (bytes : List Byte) (offset : Addr) (s : State) : Except Cause State :=
  if 4096 < offset.toNat + bytes.length then .error .romLoadError
  else .ok (s.storeBytes offset.toNat bytes)

/-- The resolution of the latch (R412): register write, `PC` advance and transition in one. -/
def State.resolveLatch (s : State) (x k : Nibble) : State :=
  ((s.setV x (k.setWidth 8)).advance).setRs .running

/-- `deliver_key(k, p)` for a legal index (R411). -/
def State.deliverKeyAt (s : State) (k : Nibble) (p : Bool) : State :=
  let t := s.setKey k p
  match s.rs with
  | .waitingForKey x => if p then t.resolveLatch x k else t
  | _ => t

/-- `deliver_key(k, p)`; an index outside 0 to 15 is refused (R413, decision D26). -/
def deliverKey (k : Nat) (p : Bool) (s : State) : Result :=
  if k < 16 then .next (s.deliverKeyAt (BitVec.ofNat 4 k) p) else .refused .keyIndexOutOfRange

/-- A timer's countdown: by 1, floored at 0 (R396, R397). -/
def countDown (b : Byte) : Byte := if b = 0 then 0 else b - 1

/-- What `tick_timers()` returns (R395): the sound edge and the tone. -/
structure TickOut where
  edge : Bool
  tone : Bool
  deriving DecidableEq, Repr

/-- The tone after a tick (R395, R398): on while `ST` is nonzero after it, or when FX18 started it since the last. -/
def State.newTone (s : State) : Bool := countDown s.st != 0 || s.sndStart

/-- The state after `tick_timers()` (R395). -/
def State.ticked (s : State) : State :=
  { s with dt := countDown s.dt, st := countDown s.st, sndStart := false, tone := s.newTone }

/-- `tick_timers()` (R395): an edge is a change of `TONE`. It does not depend on `RS` (R399). -/
def tickTimers (s : State) : State × TickOut :=
  (s.ticked, ⟨s.newTone != s.tone, s.newTone⟩)

/-- `n` ticks one after another. -/
def State.tickedTimes : Nat → State → State
  | 0, s => s
  | n + 1, s => State.tickedTimes n s.ticked

end Sys2Proof.Machine
end

