-- ==== Sys2Proof/Machine/Frame.lean ====
section
/-! DEFINITION. The frame scheduler (spec/60_exceptions.md rules R420 to R429), the boot sequence
(spec/70_reset_and_hazards.md rule R455) and the list of the core's operations (spec/10_state.md rule R52). -/

namespace Sys2Proof.Machine

/-- A queued key event (R406). The index is the host's number, checked against 0 to 15 (R413). -/
structure KeyEvent where
  index : Nat
  pressed : Bool
  deriving DecidableEq, Repr

/-- What a frame gives the host (R52, R420): a display snapshot or none, the tone or none, a fault or none, and the
outputs of its steps in order (log 16). -/
structure FrameOut where
  snapshot : Option Display
  sound : Option Bool
  fault : Option Cause
  steps : List StepOut
  deriving DecidableEq, Repr

/-- Step (a): all queued events, in arrival order, before any step (R421). -/
def drainEvents : List KeyEvent → State → Result
  | [], s => .next s
  | e :: es, s =>
    match deliverKey e.index e.pressed s with
    | .next t => drainEvents es t
    | .fault r => .fault r
    | .refused r => .refused r

/-- `ACC + RATE` (R422). -/
def State.budget (s : State) : Nat := s.acc.val + s.cfg.rate

/-- Step (b): `n <- (ACC + RATE) div 60` (R422). -/
def State.slots (s : State) : Nat := s.budget / 60

/-- Step (b): `ACC <- (ACC + RATE) mod 60` (R422). -/
def State.carryAcc (s : State) : State := { s with acc := ⟨s.budget % 60, Nat.mod_lt _ (by decide)⟩ }

/-- Step (c): exactly `n` calls of `step()`, whatever `RS` is (R423), with each one's outputs. -/
def runSlots : Nat → State → Host.Outcome (State × List StepOut) Fault Refusal
  | 0, s => .next (s, [])
  | n + 1, s =>
    match step s with
    | .next t =>
      match runSlots n t with
      | .next (u, outs) => .next (u, t.out :: outs)
      | .fault r => .fault r
      | .refused r => .refused r
    | .fault r => .fault r
    | .refused r => .refused r

/-- Step (e): the snapshot of `DISP` when a redraw was requested (R425). -/
def State.snapshot (s : State) : Option Display := if s.redraw then some s.disp else none

/-- The cause while `Faulted`. -/
def State.faultCause (s : State) : Option Cause :=
  match s.rs with
  | .faulted c => some c
  | _ => none

/-- After a fatal fault the tone is forced off (R429, decision D36). -/
def State.silenced (s : State) : State := { s with tone := false }

/-- Steps (d) to (f) and the end of a frame (R424 to R426, R429). -/
def endFrame (s : State) (outs : List StepOut) : State × FrameOut :=
  let (t, tick) := tickTimers s
  let snap := t.snapshot
  let u := { t with redraw := false }
  let snd := if tick.edge then some tick.tone else none
  match u.faultCause with
  | some c => (u.silenced, ⟨snap, if u.tone then some false else snd, some c, outs⟩)
  | none => (u, ⟨snap, snd, none, outs⟩)

/-- `frame(events)` (R420). The wall-clock sleep, step (g), is outside the model (R427, log 15). -/
def frame (events : List KeyEvent) (s : State) : Host.Outcome (State × FrameOut) Fault Refusal :=
  match s.faultCause with
  | some c => .next (s, ⟨none, none, some c, []⟩)
  | none =>
    match drainEvents events s with
    | .next t =>
      match runSlots t.slots t.carryAcc with
      | .next (u, outs) => .next (endFrame u outs)
      | .fault r => .fault r
      | .refused r => .refused r
    | .fault r => .fault r
    | .refused r => .refused r

/-- A run of the model: a finite sequence of frames, each with its queued events (R433), and what each gave the host. -/
def runFrames : List (List KeyEvent) → State → Host.Outcome (State × List FrameOut) Fault Refusal
  | [], s => .next (s, [])
  | events :: rest, s =>
    match frame events s with
    | .next (t, o) =>
      match runFrames rest t with
      | .next (u, os) => .next (u, o :: os)
      | .fault r => .fault r
      | .refused r => .refused r
    | .fault r => .fault r
    | .refused r => .refused r

/-- The core's operations (R52): nothing else changes the state. -/
inductive HostOp where
  | load (bytes : List Byte) (offset : Addr)
  | step
  | deliverKey (index : Nat) (pressed : Bool)
  | tickTimers
  | frame (events : List KeyEvent)
  deriving DecidableEq, Repr

/-- The state one operation leaves; a failed `load` is fatal at startup (R386). -/
def applyOp : HostOp → State → Result
  | .load bytes offset, s =>
    match load bytes offset s with
    | .ok t => .next t
    | .error _ => .fault .romLoadError
  | .step, s => step s
  | .deliverKey k p, s => deliverKey k p s
  | .tickTimers, s => .next (tickTimers s).1
  | .frame events, s =>
    match frame events s with
    | .next (t, _) => .next t
    | .fault r => .fault r
    | .refused r => .refused r

/-! ### The boot sequence -/

/-- Where the fixed boot sequence stands (R455): after reset, or after the one successful load. -/
inductive BootPhase where
  | fresh
  | loaded
  deriving DecidableEq, Repr

/-- A core with its place in the boot sequence (log 9); the place is the host's duty (R413), not state of the core. -/
structure Session where
  phase : BootPhase
  core : State
  deriving DecidableEq, Repr

/-- Boot step (1): reset (R455). -/
def Session.start (cfg : Config) : Session := ⟨.fresh, State.resetWith cfg⟩

/-- Boot step (2): the one load, at 0x200 (R410, R455). A failure is fatal (R386), a second load refused (K11). -/
def sessionLoad (rom : List Byte) (z : Session) : Host.Outcome Session Fault Refusal :=
  match z.phase with
  | .fresh =>
    match load rom 0x200 z.core with
    | .ok t => .next ⟨.loaded, t⟩
    | .error _ => .fault .romLoadError
  | .loaded => .refused .loadAfterBoot

/-- Boot step (3): frames, only after a successful load (R455, K11). -/
def sessionFrame (events : List KeyEvent) (z : Session) : Host.Outcome (Session × FrameOut) Fault Refusal :=
  match z.phase with
  | .fresh => .refused .frameBeforeLoad
  | .loaded =>
    match frame events z.core with
    | .next (t, o) => .next (⟨.loaded, t⟩, o)
    | .fault r => .fault r
    | .refused r => .refused r

end Sys2Proof.Machine
end

