-- ==== Sys2Proof/Safety.lean ====
section
/-! DEFINITION. The terms the statements use: what an instruction leaves unchanged, the invariants of the core, and
what the spec's whole-machine rules say, written from the rules and not from the meanings. -/

namespace Sys2Proof.Machine

/-! ### Frames -/

/-- The parts of the state, one per field of `State`. -/
inductive Part where
  | cfg | mem | regs | i | pc | stack | sp | dt | st | key | disp | rs | redraw | sndStart | tone | acc | faultPc
  | draws | out
  deriving DecidableEq, Repr

/-- A part is the same in two states, said through the model's reads: memory by every byte, the display by every
pixel, the register file, the stack and the keys by every entry. -/
def Part.Same : Part → State → State → Prop
  | .cfg, s, t => t.cfg = s.cfg
  | .mem, s, t => ∀ a : Addr, t.readMem a = s.readMem a
  | .regs, s, t => ∀ k : Nibble, t.getV k = s.getV k
  | .i, s, t => t.i = s.i
  | .pc, s, t => t.pc = s.pc
  | .stack, s, t => ∀ k : Fin 16, t.stack[k] = s.stack[k]
  | .sp, s, t => t.sp = s.sp
  | .dt, s, t => t.dt = s.dt
  | .st, s, t => t.st = s.st
  | .key, s, t => ∀ k : Nibble, t.getKey k = s.getKey k
  | .disp, s, t => ∀ idx : Fin 2048, Display.pixel t.disp idx = Display.pixel s.disp idx
  | .rs, s, t => t.rs = s.rs
  | .redraw, s, t => t.redraw = s.redraw
  | .sndStart, s, t => t.sndStart = s.sndStart
  | .tone, s, t => t.tone = s.tone
  | .acc, s, t => t.acc = s.acc
  | .faultPc, s, t => t.faultPc = s.faultPc
  | .draws, s, t => t.draws = s.draws
  | .out, s, t => t.out = s.out

/-- From `s` to `t` only the named parts may have changed. -/
def OnlyChanges (parts : List Part) (s t : State) : Prop := ∀ p : Part, p ∉ parts → p.Same s t

/-- Every register but the named ones is unchanged. -/
def RegsSameBut (ks : List Nibble) (s t : State) : Prop := ∀ k : Nibble, k ∉ ks → t.getV k = s.getV k

/-- Every byte of memory but the named ones is unchanged. -/
def MemSameBut (addrs : List Addr) (s t : State) : Prop := ∀ a : Addr, a ∉ addrs → t.readMem a = s.readMem a

/-- `exec` of the instruction answers a next state, and that state satisfies `P`. -/
def Completes (i : Instr) (s : State) (P : State → Prop) : Prop := ∃ t : State, exec i s = .next t ∧ P t

/-- `PC <- mask12(PC + n)`, in unbounded arithmetic (R14, R38). -/
def PcMoves (n : Nat) (s t : State) : Prop := t.pc.toNat = (s.pc.toNat + n) % 4096

/-- A skip instruction: `PC + 4` exactly when the condition holds, else `PC + 2`, and nothing else changes. -/
def SkipsWhen (i : Instr) (s : State) (c : Prop) : Prop :=
  Completes i s fun t => (c → PcMoves 4 s t) ∧ (¬c → PcMoves 2 s t) ∧ OnlyChanges [.pc] s t

/-- The instruction writes the number `r` into `V[x]` and changes nothing else but `PC`, which moves by 2. -/
def SetsRegister (i : Instr) (s : State) (x : Nibble) (r : Nat) : Prop :=
  Completes i s fun t =>
    (t.getV x).toNat = r ∧ RegsSameBut [x] s t ∧ PcMoves 2 s t ∧ OnlyChanges [.regs, .pc] s t

/-- The instruction writes the number `r` into `V[x]`, then the flag `f` into `V[15]` (so with x = 15 the flag is what
remains), and changes nothing else but `PC`, which moves by 2. -/
def SetsRegisterAndFlag (i : Instr) (s : State) (x : Nibble) (r f : Nat) : Prop :=
  Completes i s fun t =>
    (x ≠ 15 → (t.getV x).toNat = r) ∧ (t.getV 15).toNat = f ∧ RegsSameBut [x, 15] s t ∧ PcMoves 2 s t ∧
      OnlyChanges [.regs, .pc] s t

/-- The instruction writes the number `r` into `I` and changes nothing else but `PC`, which moves by 2. -/
def SetsIndex (i : Instr) (s : State) (r : Nat) : Prop :=
  Completes i s fun t => t.i.toNat = r ∧ PcMoves 2 s t ∧ OnlyChanges [.i, .pc] s t

/-- Every queued event has a legal key index (R413). -/
def LegalEvents (es : List KeyEvent) : Prop := ∀ e ∈ es, e.index < 16

/-! ### Invariants -/

/-- `PC`, `I`, `FAULT_PC` and every stack slot hold values below 0x1000 (R30, R35, R38, R40). -/
def State.AddressesInRange (s : State) : Prop :=
  s.pc.toNat < 4096 ∧ s.i.toNat < 4096 ∧ s.faultPc.toNat < 4096 ∧ ∀ k : Fin 16, (s.stack[k]).toNat < 4096

/-- The memory list is canonical. -/
def State.MemCanonical (s : State) : Prop := Memory.wf s.cfg s.mem = true

/-- `Faulted` is reached only by a stack fault under the policy `fatal`, and holds the state of the faulting
instruction (R44, R384). -/
def State.FaultPrecise (s : State) : Prop :=
  ∀ c : Cause, s.rs = .faulted c →
    s.cfg.stackPolicy = .fatal ∧ s.faultPc = s.pc ∧
      ((c = .stackOverflow ∧ s.sp.val = 16) ∨ (c = .stackUnderflow ∧ s.sp.val = 0))

/-- The invariant of the core. -/
def State.Inv (s : State) : Prop := s.AddressesInRange ∧ s.MemCanonical ∧ s.FaultPrecise

/-- The latch belongs to the FX0A at `PC`, and a fault to the call or return at `PC` (R354, R381, R384, R412). -/
def State.HoldsItsInstruction (s : State) : Prop :=
  (∀ x : Nibble, s.rs = .waitingForKey x → decode s.fetchWord = .ok (.ldXK x)) ∧
  (s.rs = .faulted .stackOverflow → ∃ nnn : Addr, decode s.fetchWord = .ok (.call nnn)) ∧
  (s.rs = .faulted .stackUnderflow → decode s.fetchWord = .ok .ret)

/-! ### What is a safe run -/

/-- A run has failed when it reaches `Faulted` (R433); a safe run never does. -/
def State.NotFaulted (s : State) : Prop := ∀ c : Cause, s.rs ≠ .faulted c

/-! ### The whole-machine rules -/

/-- The registers an instruction may write (R32). -/
def writtenRegs : Instr → List Nibble
  | .ldImm x _ | .addImm x _ | .ldReg x _ | .orReg x _ | .andReg x _ | .xorReg x _ | .rnd x _ | .ldXDt x => [x]
  | .addReg x _ | .sub x _ | .shr x _ | .subn x _ | .shl x _ => [x, 15]
  | .drw _ _ _ => [15]
  | .ldXMem x => (List.range (x.toNat + 1)).map (BitVec.ofNat 4)
  | .cls | .ret | .sys _ | .jp _ | .call _ | .seImm _ _ | .sneImm _ _ | .seReg _ _ | .sneReg _ _ | .ldI _ | .jpV0 _
  | .skp _ | .sknp _ | .ldXK _ | .ldDtX _ | .ldStX _ | .addIX _ | .ldFX _ | .ldBX _ | .ldMemX _ => []

/-- The addresses an instruction stores to (R83). -/
def storedAddrs (s : State) : Instr → List Addr
  | .ldBX _ => [s.addrI 0, s.addrI 1, s.addrI 2]
  | .ldMemX x => (List.range (x.toNat + 1)).map s.addrI
  | .cls | .ret | .sys _ | .jp _ | .call _ | .seImm _ _ | .sneImm _ _ | .seReg _ _ | .ldImm _ _ | .addImm _ _
  | .ldReg _ _ | .orReg _ _ | .andReg _ _ | .xorReg _ _ | .addReg _ _ | .sub _ _ | .shr _ _ | .subn _ _ | .shl _ _
  | .sneReg _ _ | .ldI _ | .jpV0 _ | .rnd _ _ | .drw _ _ _ | .skp _ | .sknp _ | .ldXDt _ | .ldXK _ | .ldDtX _
  | .ldStX _ | .addIX _ | .ldFX _ | .ldXMem _ => []

/-- Where a skip goes (R158). -/
def skipTarget (s : State) (taken : Bool) : Nat := (s.pc.toNat + if taken then 4 else 2) % 4096

/-- Where an instruction that meets a stack condition leaves `PC` (R384, R385). -/
def stackConditionTarget (s : State) : Nat :=
  match s.cfg.stackPolicy with
  | .fatal => s.pc.toNat
  | .saturate => (s.pc.toNat + 2) % 4096

/-- Where every instruction leaves `PC` (R37), in unbounded arithmetic. -/
def pcAfter (s : State) : Instr → Nat
  | .jp nnn => nnn.toNat
  | .jpV0 nnn => (nnn.toNat + (s.getV 0).toNat) % 4096
  | .call nnn => if s.sp.val = 16 then stackConditionTarget s else nnn.toNat
  | .ret =>
    if h : s.sp.val = 0 then stackConditionTarget s
    else (s.stack[s.sp.val - 1]'(by have := s.sp.isLt; omega)).toNat % 4096
  | .seImm x nn => skipTarget s (s.getV x == nn)
  | .sneImm x nn => skipTarget s (s.getV x != nn)
  | .seReg x y => skipTarget s (s.getV x == s.getV y)
  | .sneReg x y => skipTarget s (s.getV x != s.getV y)
  | .skp x => skipTarget s (s.getKey (BitVec.ofNat 4 ((s.getV x).toNat % 16)))
  | .sknp x => skipTarget s (!s.getKey (BitVec.ofNat 4 ((s.getV x).toNat % 16)))
  | .ldXK _ => s.pc.toNat
  | .cls | .sys _ | .ldImm _ _ | .addImm _ _ | .ldReg _ _ | .orReg _ _ | .andReg _ _ | .xorReg _ _ | .addReg _ _
  | .sub _ _ | .shr _ _ | .subn _ _ | .shl _ _ | .ldI _ | .rnd _ _ | .drw _ _ _ | .ldXDt _ | .ldDtX _ | .ldStX _
  | .addIX _ | .ldFX _ | .ldBX _ | .ldMemX _ | .ldXMem _ => (s.pc.toNat + 2) % 4096

/-- The stack condition an instruction meets, if any (R383, R389). -/
def stackCause (s : State) : Instr → Option Cause
  | .call _ => if s.sp.val = 16 then some .stackOverflow else none
  | .ret => if s.sp.val = 0 then some .stackUnderflow else none
  | .cls | .sys _ | .jp _ | .seImm _ _ | .sneImm _ _ | .seReg _ _ | .ldImm _ _ | .addImm _ _ | .ldReg _ _
  | .orReg _ _ | .andReg _ _ | .xorReg _ _ | .addReg _ _ | .sub _ _ | .shr _ _ | .subn _ _ | .shl _ _ | .sneReg _ _
  | .ldI _ | .jpV0 _ | .rnd _ _ | .drw _ _ _ | .skp _ | .sknp _ | .ldXDt _ | .ldXK _ | .ldDtX _ | .ldStX _
  | .addIX _ | .ldFX _ | .ldBX _ | .ldMemX _ | .ldXMem _ => none

/-- The run state an instruction leaves, from `Running` (R156). -/
def runStateAfter (s : State) (i : Instr) : RunState :=
  match i, stackCause s i, s.cfg.stackPolicy with
  | .ldXK x, _, _ => .waitingForKey x
  | _, some c, .fatal => .faulted c
  | _, _, _ => .running

/-- Whether the sprite of `n` rows at `mask12(I)`, drawn at column `ox` and row `oy`, has a 1 bit at the pixel of
column `c` and row `r`: bit 7 leftmost, both edges wrapping (R322, R324). -/
def spriteCovers (s : State) (ox oy n c r : Nat) : Bool :=
  let row := (r + 32 - oy) % 32
  let col := (c + 64 - ox) % 64
  decide (row < n) && decide (col < 8) && (s.readAtI row).toNat.testBit (7 - col)

end Sys2Proof.Machine
end

