-- ==== Sys2Proof/Certificates/Slice0/Obligations.lean ====
section
/-! DEFINITION. The statements about the core, each from the rules its docstring names. Outputs of a step are read in
the field `out` (log 4) and parameters in the field `cfg` (log 1), the model's places for them. -/

open Sys2Proof Sys2Proof.Machine

/-! ### The step engine -/

/-- R151: in `Running`, one step fetches the word at `PC`, decodes it and performs that instruction's rule in full;
what the step adds is that its outputs start cleared (R150). -/
def Obligations.StepRunsDecodedInstruction : Prop :=
  ∀ (s : State) (i : Instr), s.rs = .running → decode s.fetchWord = .ok i →
    step s = exec i (s.setOut StepOut.none)

/-- R84: fetch is big-endian, the high byte from `PC`, the low byte from `mask12(PC + 1)`, which wraps at 0xFFF. The
premise leaves out the values of `PC` that no run reaches (`StepKeepsTheInvariant`; log 6 says what the model does). -/
def Obligations.FetchIsBigEndianAndWraps : Prop :=
  ∀ s : State, s.pc.toNat < 4096 → s.fetchWord.toNat =
    (s.readMem (BitVec.ofNat 12 s.pc.toNat)).toNat * 256 +
      (s.readMem (BitVec.ofNat 12 ((s.pc.toNat + 1) % 4096))).toNat

/-- R157: an unknown word advances `PC` by 2, is reported, and changes nothing else. -/
def Obligations.StepReportsUnknownWord : Prop :=
  ∀ (s : State) (r : Reject), s.rs = .running → decode s.fetchWord = .error r →
    ∃ t : State, step s = .next t ∧ PcMoves 2 s t ∧ t.out.unknownOpcode = true ∧ t.out.fault = none ∧
      OnlyChanges [.pc, .out] s t

/-- R152 (decision D24): a step while waiting for a key changes nothing; its outputs are 0 and none (R150). -/
def Obligations.StepWhileWaitingChangesNothing : Prop :=
  ∀ (s : State) (x : Nibble), s.rs = .waitingForKey x →
    step s = .next { s with out := ⟨false, none⟩ }

/-- R153 (decision D9): a step while `Faulted` changes nothing and returns the cause again. -/
def Obligations.StepWhileFaultedReportsTheCause : Prop :=
  ∀ (s : State) (c : Cause), s.rs = .faulted c →
    step s = .next { s with out := ⟨false, some c⟩ }

/-- R380, R150: no condition stops a step; from every state it answers a next state. -/
def Obligations.StepAlwaysAnswersNext : Prop :=
  ∀ s : State, ∃ t : State, step s = .next t

/-! ### Encoding -/

/-- Words written out from the patterns of R121 decode to their instructions; one unknown word of each group of R118. -/
def Obligations.SpecWordsDecode : Prop :=
  decode 0x00E0 = .ok .cls ∧ decode 0x00EE = .ok .ret ∧ decode 0x0123 = .ok (.sys 0x123) ∧
  decode 0x2210 = .ok (.call 0x210) ∧ decode 0x3342 = .ok (.seImm 3 0x42) ∧ decode 0x9010 = .ok (.sneReg 0 1) ∧
  decode 0x6A7B = .ok (.ldImm 10 0x7B) ∧ decode 0x8104 = .ok (.addReg 1 0) ∧ decode 0x8F0E = .ok (.shl 15 0) ∧
  decode 0xC00F = .ok (.rnd 0 0x0F) ∧ decode 0xA300 = .ok (.ldI 0x300) ∧ decode 0xFA33 = .ok (.ldBX 10) ∧
  decode 0xD121 = .ok (.drw 1 2 1) ∧ decode 0xE09E = .ok (.skp 0) ∧ decode 0xF30A = .ok (.ldXK 3) ∧
  decode 0x5121 = .error .unknownGroup5 ∧ decode 0x8018 = .error .unknownGroup8 ∧
  decode 0x9121 = .error .unknownGroup9 ∧ decode 0xE09F = .error .unknownGroupE ∧
  decode 0xF0FF = .error .unknownGroupF

/-- R121, R115: the word of a well-formed instruction decodes to it, every operand at every value; as two bytes in
memory order too (R84). That 0NNN keeps NNN and 8XY6 and 8XYE keep Y (fields R117 ignores) is the model's choice
(log 14). -/
def Obligations.DecodeInvertsEncode : Prop :=
  ∀ i : Instr, WellFormed i = true → decode (encode i) = .ok i ∧ decodeBytes (encodeBytes i) = .ok (i, [])

/-- R121, R116: a word that decodes is the word of what it decodes to, and that is well formed. For 0NNN, and for 8XY6
and 8XYE with `Y` not 0, this is the model's choice (log 14): their constructors keep the field that R117 says they
ignore, where the assembler of R123 (decision D34) writes `Y = 0`. -/
def Obligations.EncodeInvertsDecode : Prop :=
  ∀ (w : Word) (i : Instr), decode w = .ok i → encode i = w ∧ WellFormed i = true

/-- R118 (decision D15): which words are unknown, by group, low nibble and low byte. -/
def Obligations.UnknownWordsAreThoseListed : Prop :=
  ∀ w : Word, (∃ r : Reject, decode w = .error r) ↔
    (w.toNat / 4096 = 5 ∧ w.toNat % 16 ≠ 0) ∨
    (w.toNat / 4096 = 8 ∧ w.toNat % 16 ∈ [8, 9, 10, 11, 12, 13, 15]) ∨
    (w.toNat / 4096 = 9 ∧ w.toNat % 16 ≠ 0) ∨
    (w.toNat / 4096 = 14 ∧ w.toNat % 256 ∉ [0x9E, 0xA1]) ∨
    (w.toNat / 4096 = 15 ∧ w.toNat % 256 ∉ [0x07, 0x0A, 0x15, 0x18, 0x1E, 0x29, 0x33, 0x55, 0x65])

/-- R121: a word matches a row when `word & mask = match`; a known word matches its own row and no other, once the
0NNN row leaves 0x00E0 and 0x00EE out; a word that matches a row is known. -/
def Obligations.OpcodeMapHasOneRowPerKnownWord : Prop :=
  (∀ (w : Word) (i : Instr), decode w = .ok i → w &&& (opcodeRow i).mask = (opcodeRow i).bits) ∧
  (∀ (w : Word) (j : Instr), w &&& (opcodeRow j).mask = (opcodeRow j).bits →
    ∃ i : Instr, decode w = .ok i ∧
      (opcodeRow i = opcodeRow j ∨ (opcodeRow j = opcodeRow (.sys 0) ∧ (w = 0x00E0 ∨ w = 0x00EE))))

/-- R116: 0x00E0 and 0x00EE are CLS and RET; every other group-0 word is 0NNN, known, and only advances `PC`. -/
def Obligations.GroupZeroWords : Prop :=
  ∀ w : Word, w.toNat < 0x1000 →
    (decode w = if w = 0x00E0 then .ok .cls else if w = 0x00EE then .ok .ret
      else .ok (.sys (BitVec.ofNat 12 w.toNat))) ∧
    (w ≠ 0x00E0 → w ≠ 0x00EE → ∀ s : State, Completes (.sys (BitVec.ofNat 12 w.toNat)) s fun t =>
      PcMoves 2 s t ∧ OnlyChanges [.pc] s t)

/-! ### Control flow -/

/-- R181, R40 (decision D11): a return with `SP > 0` pops `S[SP - 1]` into `PC`; the slot keeps its value. -/
def Obligations.ReturnPopsIntoPc : Prop :=
  ∀ s : State, 0 < s.sp.val → Completes .ret s fun t =>
    t.sp.val + 1 = s.sp.val ∧
    (∀ k : Fin 16, k.val + 1 = s.sp.val →
      t.pc.toNat = (s.stack[k]).toNat % 4096 ∧ ((s.stack[k]).toNat < 4096 → t.pc = s.stack[k])) ∧
    OnlyChanges [.pc, .sp] s t

/-- R182, R183: 0NNN only advances `PC`, and 1NNN only sets it to NNN. -/
def Obligations.SysAdvancesAndJumpSetsPc : Prop :=
  ∀ (s : State) (nnn : Addr),
    (Completes (.sys nnn) s fun t => PcMoves 2 s t ∧ OnlyChanges [.pc] s t) ∧
    (Completes (.jp nnn) s fun t => t.pc.toNat = nnn.toNat ∧ OnlyChanges [.pc] s t)

/-- R189 (decision D33 for the mask): BNNN adds V0, whatever the X nibble of NNN, and wraps at 12 bits. -/
def Obligations.JumpWithOffsetAddsVZero : Prop :=
  ∀ (s : State) (nnn : Addr), Completes (.jpV0 nnn) s fun t =>
    t.pc.toNat = (nnn.toNat + (s.getV 0).toNat) % 4096 ∧ OnlyChanges [.pc] s t

/-- R184 (decision D5 for the mask): a call with `SP < 16` pushes `mask12(PC + 2)` and jumps; the other slots stay. -/
def Obligations.CallPushesReturnAddress : Prop :=
  ∀ (s : State) (nnn : Addr), s.sp.val < 16 → Completes (.call nnn) s fun t =>
    t.sp.val = s.sp.val + 1 ∧ t.pc.toNat = nnn.toNat ∧
    (∀ k : Fin 16, (t.stack[k]).toNat =
      if k.val = s.sp.val then (s.pc.toNat + 2) % 4096 else (s.stack[k]).toNat) ∧
    OnlyChanges [.stack, .sp, .pc] s t

/-- R185 to R188: the four register skips. -/
def Obligations.SkipsCompareRegisters : Prop :=
  ∀ (s : State) (x y : Nibble) (nn : Byte),
    SkipsWhen (.seImm x nn) s ((s.getV x).toNat = nn.toNat) ∧
    SkipsWhen (.sneImm x nn) s ((s.getV x).toNat ≠ nn.toNat) ∧
    SkipsWhen (.seReg x y) s ((s.getV x).toNat = (s.getV y).toNat) ∧
    SkipsWhen (.sneReg x y) s ((s.getV x).toNat ≠ (s.getV y).toNat)

/-- R350 to R352 (decision D16): the two key skips test key `V[X] & 0xF`. -/
def Obligations.SkipsTestTheMaskedKey : Prop :=
  ∀ (s : State) (x k : Nibble), k.toNat = (s.getV x).toNat % 16 →
    SkipsWhen (.skp x) s (s.getKey k = true) ∧ SkipsWhen (.sknp x) s (s.getKey k = false)

/-! ### The stack conditions -/

/-- R383, R384 (decisions D8, D9, D40), codes of R381: under `fatal`, a call at depth 16 and a return at depth 0 set
`FAULT_PC`, `RS` and the fault output, and change nothing else. -/
def Obligations.FatalStackFaultIsPrecise : Prop :=
  ∀ s : State, s.cfg.stackPolicy = .fatal →
    (∀ nnn : Addr, s.sp.val = 16 → Completes (.call nnn) s fun t =>
      t.faultPc = s.pc ∧ t.rs = .faulted .stackOverflow ∧ causeCode t.out.fault = 2 ∧
      t.out.unknownOpcode = s.out.unknownOpcode ∧ OnlyChanges [.faultPc, .rs, .out] s t) ∧
    (s.sp.val = 0 → Completes .ret s fun t =>
      t.faultPc = s.pc ∧ t.rs = .faulted .stackUnderflow ∧ causeCode t.out.fault = 3 ∧
      t.out.unknownOpcode = s.out.unknownOpcode ∧ OnlyChanges [.faultPc, .rs, .out] s t)

/-- R385 (decision D8): under `saturate` both are no-ops that report the cause, and the return after a saturated call
pops the 16th entry. -/
def Obligations.SaturatedStackConditionIsNoOp : Prop :=
  ∀ s : State, s.cfg.stackPolicy = .saturate →
    (∀ nnn : Addr, s.sp.val = 16 → Completes (.call nnn) s fun t =>
      PcMoves 2 s t ∧ causeCode t.out.fault = 2 ∧ t.out.unknownOpcode = s.out.unknownOpcode ∧
      OnlyChanges [.pc, .out] s t ∧
      Completes .ret t fun u => u.sp.val = 15 ∧ u.pc.toNat = (s.stack[(15 : Fin 16)]).toNat % 4096) ∧
    (s.sp.val = 0 → Completes .ret s fun t =>
      PcMoves 2 s t ∧ causeCode t.out.fault = 3 ∧ t.out.unknownOpcode = s.out.unknownOpcode ∧
      OnlyChanges [.pc, .out] s t)

/-! ### Register loads and the ALU -/

/-- R231, R232, R233, R353: 6XNN, 7XNN (8-bit wrap, no flag), 8XY0 and FX07 write one register and nothing else. -/
def Obligations.LoadsAndImmediateAdd : Prop :=
  ∀ (s : State) (x y : Nibble) (nn : Byte),
    SetsRegister (.ldImm x nn) s x nn.toNat ∧
    SetsRegister (.addImm x nn) s x (((s.getV x).toNat + nn.toNat) % 256) ∧
    SetsRegister (.ldReg x y) s x (s.getV y).toNat ∧
    SetsRegister (.ldXDt x) s x s.dt.toNat

/-- R234 to R236 (decision D13: VF is not reset): the three logic instructions. -/
def Obligations.LogicLeavesTheFlag : Prop :=
  ∀ (s : State) (x y : Nibble),
    SetsRegister (.orReg x y) s x ((s.getV x).toNat ||| (s.getV y).toNat) ∧
    SetsRegister (.andReg x y) s x ((s.getV x).toNat &&& (s.getV y).toNat) ∧
    SetsRegister (.xorReg x y) s x ((s.getV x).toNat ^^^ (s.getV y).toNat)

/-- R237 with R244 (decision D12): the sum wraps at 8 bits and VF is 1 exactly when it passes 255. -/
def Obligations.AddSetsCarry : Prop :=
  ∀ (s : State) (x y : Nibble),
    SetsRegisterAndFlag (.addReg x y) s x (((s.getV x).toNat + (s.getV y).toNat) % 256)
      (if 255 < (s.getV x).toNat + (s.getV y).toNat then 1 else 0)

/-- R238, R240 with R244 (decision D12): the difference wraps, and VF is 1 exactly when the minuend is strictly
greater (conflict C2). -/
def Obligations.SubtractsSetNoBorrow : Prop :=
  ∀ (s : State) (x y : Nibble),
    SetsRegisterAndFlag (.sub x y) s x (((s.getV x).toNat + 256 - (s.getV y).toNat) % 256)
      (if (s.getV y).toNat < (s.getV x).toNat then 1 else 0) ∧
    SetsRegisterAndFlag (.subn x y) s x (((s.getV y).toNat + 256 - (s.getV x).toNat) % 256)
      (if (s.getV x).toNat < (s.getV y).toNat then 1 else 0)

/-- R239, R241 with R244 (decision D12): the shifts, whatever Y is (R117); VF is the bit shifted out. -/
def Obligations.ShiftsSetTheLostBit : Prop :=
  ∀ (s : State) (x y : Nibble),
    SetsRegisterAndFlag (.shr x y) s x ((s.getV x).toNat / 2) ((s.getV x).toNat % 2) ∧
    SetsRegisterAndFlag (.shl x y) s x ((s.getV x).toNat * 2 % 256) ((s.getV x).toNat / 128)

/-- R242 (decision D21), with the free draw as the model holds it (log 3): the byte is `Config.randByte` at the number
of draws so far, a constant with no body, and the draw is counted. With NN = 0 the result is 0 whatever the draw. -/
def Obligations.RandomByteUnderMask : Prop :=
  ∀ (s : State) (x : Nibble) (nn : Byte), Completes (.rnd x nn) s fun t =>
    (t.getV x).toNat = (Config.randByte s.draws).toNat &&& nn.toNat ∧ (nn = 0 → t.getV x = 0) ∧
    t.draws = s.draws + 1 ∧ RegsSameBut [x] s t ∧ PcMoves 2 s t ∧ OnlyChanges [.regs, .pc, .draws] s t

/-! ### Index register and memory -/

/-- R82, R280 (decision D14): the effective address is `(I + k) mod 4096`, and 16 consecutive offsets give 16 addresses
(R90, `20_memory.md` section 3). -/
def Obligations.EffectiveAddressWraps : Prop :=
  ∀ (s : State) (j k : Nat), (s.addrI k).toNat = (s.i.toNat + k) % 4096 ∧
    (j < 16 → k < 16 → s.addrI j = s.addrI k → j = k)

/-- R281, R282 (decision D38), R283 (decision D17): ANNN, FX1E and FX29 write `I`, reduced to 12 bits, and no flag. -/
def Obligations.IndexWritesWrap : Prop :=
  ∀ (s : State) (x : Nibble) (nnn : Addr),
    SetsIndex (.ldI nnn) s nnn.toNat ∧
    SetsIndex (.addIX x) s ((s.i.toNat + (s.getV x).toNat) % 4096) ∧
    SetsIndex (.ldFX x) s ((s.cfg.fontBase.toNat + (s.getV x).toNat * 5) % 4096)

/-- R284: FX33 stores hundreds, tens and ones at `I`, `I + 1`, `I + 2`, each address wrapped, and nothing else. -/
def Obligations.BcdStoresThreeDigits : Prop :=
  ∀ (s : State) (x : Nibble), Completes (.ldBX x) s fun t =>
    (t.readMem (s.addrI 0)).toNat = (s.getV x).toNat / 100 ∧
    (t.readMem (s.addrI 1)).toNat = (s.getV x).toNat / 10 % 10 ∧
    (t.readMem (s.addrI 2)).toNat = (s.getV x).toNat % 10 ∧
    MemSameBut [s.addrI 0, s.addrI 1, s.addrI 2] s t ∧ PcMoves 2 s t ∧ OnlyChanges [.mem, .pc] s t

/-- R285 (decision D14: `I` unchanged): FX55 stores `V[0]` to `V[X]` at `mask12(I + k)` and nothing else. -/
def Obligations.StoreRegistersFromIndex : Prop :=
  ∀ (s : State) (x : Nibble), Completes (.ldMemX x) s fun t =>
    (∀ k : Nibble, k.toNat ≤ x.toNat → t.readMem (s.addrI k.toNat) = s.getV k) ∧
    (∀ a : Addr, (∀ k : Nat, k ≤ x.toNat → a ≠ s.addrI k) → t.readMem a = s.readMem a) ∧
    PcMoves 2 s t ∧ OnlyChanges [.mem, .pc] s t

/-- R286 (decision D14: `I` unchanged): FX65 loads `V[0]` to `V[X]` from `mask12(I + k)` and nothing else. -/
def Obligations.LoadRegistersFromIndex : Prop :=
  ∀ (s : State) (x : Nibble), Completes (.ldXMem x) s fun t =>
    (∀ k : Nibble, t.getV k = if k.toNat ≤ x.toNat then s.readMem (s.addrI k.toNat) else s.getV k) ∧
    PcMoves 2 s t ∧ OnlyChanges [.regs, .pc] s t

/-- R98 (decision D31): a word stored right behind the storing instruction is the word the next step fetches. -/
def Obligations.FetchSeesTheStoreBefore : Prop :=
  ∀ (s t : State) (x : Nibble), s.i.toNat % 4096 = (s.pc.toNat + 2) % 4096 →
    (exec (.ldMemX x) s = .next t → 1 ≤ x.toNat → t.fetchWord = wordOfBytes (s.getV 0) (s.getV 1)) ∧
    (exec (.ldBX x) s = .next t →
      t.fetchWord.toNat = (s.getV x).toNat / 100 * 256 + (s.getV x).toNat / 10 % 10)

/-- R91 (decision D2) with R283 (decision D17) and R452 (decision D3): while the font's 80 bytes are as reset left them
(`FONT_DATA` at `FONT_BASE`; `ResetLeaves` says that reset leaves them so), whatever the rest of memory holds, FX29 on a
digit points `I` at that digit's five bytes. -/
def Obligations.FontGlyphIsWhereIndexPoints : Prop :=
  ∀ (s : State) (x : Nibble) (h : (s.getV x).toNat < 16),
    (∀ (j : Nat) (hj : j < 80), s.readMem (BitVec.ofNat 12 (s.cfg.fontBase.toNat + j)) = s.cfg.fontData[j]) →
    Completes (.ldFX x) s fun t =>
      ∀ (k : Nat) (hk : k < 5), t.readMem (t.addrI k) = s.cfg.fontData[(s.getV x).toNat * 5 + k]

/-! ### Display -/

/-- R321: 00E0 clears every pixel, requests a redraw, and changes nothing else but `PC`. -/
def Obligations.ClearBlanksTheDisplay : Prop :=
  ∀ s : State, Completes .cls s fun t =>
    (∀ idx : Fin 2048, Display.pixel t.disp idx = false) ∧ t.redraw = true ∧ PcMoves 2 s t ∧
    OnlyChanges [.disp, .redraw, .pc] s t

/-- R322, R323, both of `44_display.md` section 1 (decisions D18 to D20, conflict C1, log 12): DXYN is an exclusive or
of the sprite onto the display at the origin `(V[X] mod 64, V[Y] mod 32)`, bit 7 leftmost, both edges wrapping; VF is 1
exactly when a lit pixel lies under a 1 bit. -/
def Obligations.DrawIsExclusiveOr : Prop :=
  ∀ (s : State) (x y n : Nibble), Completes (.drw x y n) s fun t =>
    (∀ c r : Nat, c < 64 → r < 32 → Display.pixel t.disp (pixelIndex c r) =
      (Display.pixel s.disp (pixelIndex c r) ^^
        spriteCovers s ((s.getV x).toNat % 64) ((s.getV y).toNat % 32) n.toNat c r)) ∧
    ((t.getV 15).toNat =
      if ∃ c : Fin 64, ∃ r : Fin 32, Display.pixel s.disp (pixelIndex c r) = true ∧
        spriteCovers s ((s.getV x).toNat % 64) ((s.getV y).toNat % 32) n.toNat c r = true then 1 else 0) ∧
    t.redraw = true ∧ RegsSameBut [15] s t ∧ PcMoves 2 s t ∧ OnlyChanges [.regs, .disp, .redraw, .pc] s t

/-- R322, `44_display.md` section 1: drawing the same sprite twice at one place restores every pixel, and the second draw
collides exactly when some pixel under a 1 bit was unlit before the first (so always, on a display clear under the
sprite; log 19 says where R323's remark differs). Which pixels lie under a 1 bit rests on decision D19 with log 12 (bit 7
leftmost) and on decision D18 with conflict C1 (origin row mod 32). -/
def Obligations.DrawTwiceRestoresTheDisplay : Prop :=
  ∀ (s t u : State) (x y n : Nibble), x ≠ 15 → y ≠ 15 →
    exec (.drw x y n) s = .next t → exec (.drw x y n) t = .next u →
    (∀ idx : Fin 2048, Display.pixel u.disp idx = Display.pixel s.disp idx) ∧
    (u.getV 15 = 1 ↔ ∃ c r : Nat, c < 64 ∧ r < 32 ∧ Display.pixel s.disp (pixelIndex c r) = false ∧
      spriteCovers s ((s.getV x).toNat % 64) ((s.getV y).toNat % 32) n.toNat c r = true)

/-! ### Keys and timers -/

/-- R355, R356 (decision D25), R354: FX15 and FX18 write the timers, FX18 marking a start only from 0 to nonzero; FX0A
sets the latch and changes nothing else, `PC` included. -/
def Obligations.TimerWritesAndKeyWait : Prop :=
  ∀ (s : State) (x : Nibble),
    (Completes (.ldDtX x) s fun t => t.dt = s.getV x ∧ PcMoves 2 s t ∧ OnlyChanges [.dt, .pc] s t) ∧
    (Completes (.ldStX x) s fun t => t.st = s.getV x ∧
      (s.st = 0 ∧ s.getV x ≠ 0 → t.sndStart = true) ∧
      (¬(s.st = 0 ∧ s.getV x ≠ 0) → t.sndStart = s.sndStart) ∧
      PcMoves 2 s t ∧ OnlyChanges [.st, .sndStart, .pc] s t) ∧
    (Completes (.ldXK x) s fun t => t.rs = .waitingForKey x ∧ OnlyChanges [.rs] s t)

/-- R411, R412 (decision D27): a delivery writes its key; a press while latched also writes the key's index into the
latched register, advances `PC` by 2 and returns to `Running`, and any other delivery changes nothing more. -/
def Obligations.KeyDelivery : Prop :=
  ∀ (s : State) (k : Nat) (p : Bool), k < 16 → ∃ t : State, deliverKey k p s = .next t ∧
    (∀ j : Nibble, t.getKey j = if j.toNat = k then p else s.getKey j) ∧
    (∀ x : Nibble, s.rs = .waitingForKey x → p = true →
      (t.getV x).toNat = k ∧ RegsSameBut [x] s t ∧ PcMoves 2 s t ∧ t.rs = .running ∧
      OnlyChanges [.key, .regs, .pc, .rs] s t) ∧
    (p = false ∨ (∀ x : Nibble, s.rs ≠ .waitingForKey x) → OnlyChanges [.key] s t)

/-- R412: of a queue of events, only the first press resolves the latch; releases before it and every event after it
write keys alone. -/
def Obligations.OnlyTheFirstPressResolves : Prop :=
  ∀ (s : State) (x : Nibble) (k : Nat) (before after : List KeyEvent), s.rs = .waitingForKey x → k < 16 →
    LegalEvents before → (∀ e ∈ before, e.pressed = false) → LegalEvents after →
    ∃ t : State, drainEvents (before ++ ⟨k, true⟩ :: after) s = .next t ∧
      (t.getV x).toNat = k ∧ RegsSameBut [x] s t ∧ PcMoves 2 s t ∧ t.rs = .running ∧
      OnlyChanges [.key, .regs, .pc, .rs] s t

/-- R413 (decision D26), R455 and R386 (decision D30): an index outside 0 to 15 is refused, a load after the boot load
and a frame before it are refused, and a boot load that does not fit stops the machine (log 9, log 10). One that fits
changes memory alone, and of memory no byte below 0x200, so no byte of the font (R453, decision D2). -/
def Obligations.HostDutiesAreRefused : Prop :=
  (∀ (k : Nat) (p : Bool) (s : State), 16 ≤ k → deliverKey k p s = .refused .keyIndexOutOfRange) ∧
  (∀ (rom : List Byte) (s : State), sessionLoad rom ⟨.loaded, s⟩ = .refused .loadAfterBoot) ∧
  (∀ (es : List KeyEvent) (s : State), sessionFrame es ⟨.fresh, s⟩ = .refused .frameBeforeLoad) ∧
  (∀ (rom : List Byte) (s : State), 3584 < rom.length → sessionLoad rom ⟨.fresh, s⟩ = .fault .romLoadError) ∧
  (∀ (rom : List Byte) (s : State), rom.length ≤ 3584 →
    ∃ t : State, sessionLoad rom ⟨.fresh, s⟩ = .next ⟨.loaded, t⟩ ∧ OnlyChanges [.mem] s t ∧
      (∀ a : Addr, a.toNat < 0x200 → t.readMem a = s.readMem a) ∧
      (∀ j : Nat, j < 80 → t.readMem (BitVec.ofNat 12 (s.cfg.fontBase.toNat + j)) =
        s.readMem (BitVec.ofNat 12 (s.cfg.fontBase.toNat + j))))

/-! ### The timer engine and sound -/

/-- R396, R397: over `n` ticks each timer falls by `n`, floored at 0, whatever the run state (R399). -/
def Obligations.TimersCountDownToZero : Prop :=
  ∀ (n : Nat) (s : State),
    (State.tickedTimes n s).dt.toNat = s.dt.toNat - n ∧ (State.tickedTimes n s).st.toNat = s.st.toNat - n ∧
    OnlyChanges [.dt, .st, .sndStart, .tone] s (State.tickedTimes n s)

/-- R395 (decision D25): one tick, its tone and its edge. -/
def Obligations.TickGivesToneAndEdge : Prop :=
  ∀ s : State,
    (tickTimers s).1.dt.toNat = s.dt.toNat - 1 ∧ (tickTimers s).1.st.toNat = s.st.toNat - 1 ∧
    ((tickTimers s).1.tone = true ↔ 1 < s.st.toNat ∨ s.sndStart = true) ∧
    (tickTimers s).1.sndStart = false ∧ (tickTimers s).2.tone = (tickTimers s).1.tone ∧
    ((tickTimers s).2.edge = true ↔ (tickTimers s).1.tone ≠ s.tone) ∧
    OnlyChanges [.dt, .st, .sndStart, .tone] s (tickTimers s).1

/-- R398, stop by countdown (decision D25, conflict C8): with the tone on and no start pending, `ST = m` gives exactly
one edge, at tick `m`. -/
def Obligations.SoundStopsOnceAtZero : Prop :=
  ∀ (s : State) (n : Nat), s.sndStart = false → (s.tone = true ↔ s.st ≠ 0) →
    ((tickTimers (State.tickedTimes n s)).2.edge = true ↔ n + 1 = s.st.toNat)

/-- R398, start and short beep (decision D25, conflict C11): FX18 from 0 to nonzero turns the tone on at the next tick,
with an edge if it was off; when the value was 1, the tick after that turns it off, with an edge. -/
def Obligations.SoundStartsAtTheNextTick : Prop :=
  ∀ (s t : State) (x : Nibble), s.st = 0 → s.getV x ≠ 0 → exec (.ldStX x) s = .next t →
    (tickTimers t).2.tone = true ∧ ((tickTimers t).2.edge = true ↔ s.tone = false) ∧
    (s.getV x = 1 → (tickTimers (tickTimers t).1).2 = ⟨true, false⟩)

/-! ### Loading and frames -/

/-- R410: `load` places the bytes at the offset and nothing else, or fails with everything unchanged. -/
def Obligations.LoadPlacesTheBytes : Prop :=
  ∀ (bytes : List Byte) (offset : Addr) (s : State),
    (offset.toNat + bytes.length ≤ 4096 → ∃ t : State, load bytes offset s = .ok t ∧
      (∀ (j : Nat) (h : j < bytes.length), t.readMem (BitVec.ofNat 12 (offset.toNat + j)) = bytes[j]) ∧
      (∀ a : Addr, a.toNat < offset.toNat ∨ offset.toNat + bytes.length ≤ a.toNat → t.readMem a = s.readMem a) ∧
      OnlyChanges [.mem] s t) ∧
    (4096 < offset.toNat + bytes.length → load bytes offset s = .error .romLoadError)

/-- R420 to R426 (decisions D25, D29), R429 (decision D36): from a state that is not `Faulted`, a frame of legal events
completes: the events, then `(ACC + RATE) div 60` steps, then one tick, then the snapshot and the sound. `t` is the
state after the events and `v` the state after the steps. -/
def Obligations.FrameRunsInOrder : Prop :=
  ∀ (s : State) (es : List KeyEvent), s.NotFaulted → LegalEvents es →
    ∃ (t v u : State) (o : FrameOut), drainEvents es s = .next t ∧
      runSlots ((s.acc.val + s.cfg.rate) / 60) t.carryAcc = .next (v, o.steps) ∧
      frame es s = .next (u, o) ∧
      o.steps.length = (s.acc.val + s.cfg.rate) / 60 ∧ u.acc.val = (s.acc.val + s.cfg.rate) % 60 ∧
      u.dt.toNat = v.dt.toNat - 1 ∧ u.st.toNat = v.st.toNat - 1 ∧ u.sndStart = false ∧ u.redraw = false ∧
      o.snapshot = (if v.redraw then some v.disp else none) ∧
      (v.NotFaulted → o.fault = none ∧ u.tone = (tickTimers v).2.tone ∧
        o.sound = if (tickTimers v).2.edge then some u.tone else none) ∧
      (∀ c : Cause, v.rs = .faulted c → o.fault = some c ∧ u.tone = false) ∧
      OnlyChanges [.dt, .st, .sndStart, .tone, .redraw] v u

/-- R422 (decision D29): frames none of which meets a fault run `(ACC + F * RATE) div 60` steps in all, with no drift,
so any 60 of them run exactly `RATE`. -/
def Obligations.FramesKeepTheRateExactly : Prop :=
  ∀ (fs : List (List KeyEvent)) (s t : State) (os : List FrameOut), runFrames fs s = .next (t, os) →
    (∀ o ∈ os, o.fault = none) →
    (os.map fun o => o.steps.length).sum = (s.acc.val + fs.length * s.cfg.rate) / 60 ∧
    t.acc.val = (s.acc.val + fs.length * s.cfg.rate) % 60 ∧
    (fs.length = 60 → (os.map fun o => o.steps.length).sum = s.cfg.rate)

/-- R429 (decisions D9, D36): a frame that begins in `Faulted` does nothing; one that ends in it leaves the tone off,
and sends tone-off if the tick left it on. -/
def Obligations.FaultEndsTheFramesSilently : Prop :=
  (∀ (s : State) (es : List KeyEvent) (c : Cause), s.rs = .faulted c →
    frame es s = .next (s, ⟨none, none, some c, []⟩)) ∧
  (∀ (v : State) (outs : List StepOut) (c : Cause), v.rs = .faulted c →
    (endFrame v outs).1.tone = false ∧ (endFrame v outs).2.fault = some c ∧
    ((tickTimers v).1.tone = true → (endFrame v outs).2.sound = some false) ∧
    (endFrame v outs).2.sound ≠ some true)

/-- R388 (decision D9): `Faulted` is left by no operation, and none but `load`, a delivery's key and a tick's timers
changes anything. -/
def Obligations.FaultedIsTerminal : Prop :=
  ∀ (op : HostOp) (s t : State) (c : Cause), s.rs = .faulted c → applyOp op s = .next t →
    t.rs = .faulted c ∧ OnlyChanges [.mem, .key, .dt, .st, .sndStart, .tone, .out] s t ∧
    ((∀ (bytes : List Byte) (offset : Addr), op ≠ .load bytes offset) → ∀ a : Addr, t.readMem a = s.readMem a)

/-! ### Reset and the invariants -/

/-- R450 (decisions D4, D9, D25, D29, D35, D40), with the font of R452 and R453 (decisions D2, D3): what reset leaves, for
every value of the parameters; `Config` holds the bound of R453 (log 18). -/
def Obligations.ResetLeaves : Prop :=
  ∀ cfg : Config,
    let s := State.resetWith cfg
    s.cfg = cfg ∧ s.pc.toNat = 0x200 ∧ s.i = 0 ∧ s.sp.val = 0 ∧ s.dt = 0 ∧ s.st = 0 ∧ s.rs = .running ∧
    s.redraw = false ∧ s.sndStart = false ∧ s.tone = false ∧ s.acc.val = 0 ∧ s.faultPc = 0 ∧
    (∀ k : Nibble, s.getV k = 0 ∧ s.getKey k = false) ∧ (∀ k : Fin 16, s.stack[k] = 0) ∧
    (∀ idx : Fin 2048, Display.pixel s.disp idx = false) ∧
    (∀ (j : Nat) (h : j < 80), s.readMem (BitVec.ofNat 12 (cfg.fontBase.toNat + j)) = cfg.fontData[j]) ∧
    (∀ a : Addr, a.toNat < cfg.fontBase.toNat ∨ cfg.fontBase.toNat + 80 ≤ a.toNat → s.readMem a = 0)

/-- The invariants hold at reset, for every value of the parameters. -/
def Obligations.InvariantsHoldAtReset : Prop :=
  ∀ cfg : Config, (State.resetWith cfg).Inv ∧ (State.resetWith cfg).HoldsItsInstruction

/-- R35, R38, R40 (decision D5), R384: every step keeps the addresses in range, the memory canonical and a fault
precise. -/
def Obligations.StepKeepsTheInvariant : Prop :=
  ∀ s t : State, s.Inv → step s = .next t → t.Inv

/-- R52: every operation of the core keeps the same invariant. -/
def Obligations.EveryOperationKeepsTheInvariant : Prop :=
  ∀ (op : HostOp) (s t : State), s.Inv → applyOp op s = .next t → t.Inv

/-- R412, R381: while the core waits, the word at `PC` is the FX0A it waits in, with the latched register; while it is
`Faulted`, the call or return that faulted. Every operation after the boot load keeps this. -/
def Obligations.WaitingAndFaultedCoreHoldsItsInstruction : Prop :=
  ∀ (op : HostOp) (s t : State), (∀ (bytes : List Byte) (offset : Addr), op ≠ .load bytes offset) →
    s.HoldsItsInstruction → applyOp op s = .next t → t.HoldsItsInstruction

/-! ### The whole-machine rules -/

/-- R32: registers are written by the listed instructions only. -/
def Obligations.OnlyTheListedRegistersAreWritten : Prop :=
  ∀ (i : Instr) (s t : State), exec i s = .next t → RegsSameBut (writtenRegs i) s t

/-- R83: memory is written by FX33 and FX55 only, and only at their addresses. -/
def Obligations.OnlyTheListedBytesAreWritten : Prop :=
  ∀ (i : Instr) (s t : State), exec i s = .next t → MemSameBut (storedAddrs s i) s t

/-- R37, R158 (decision D5): where every instruction leaves `PC`, in unbounded arithmetic. The targets and the skip
conditions are those of R181 to R189 (`41_control_flow.md` section 2), with the wrap of BNNN by decision D33; EX9E and EXA1
test key `V[X] mod 16` by decision D16 (R350 to R352); a stack condition keeps `PC` under `fatal` (R384, decision D9) and
moves it by 2 under `saturate` (R385, decision D8). Log 20 says how the model follows these decisions. -/
def Obligations.EveryInstructionMovesPcAsListed : Prop :=
  ∀ (i : Instr) (s t : State), exec i s = .next t → t.pc.toNat = pcAfter s i

/-- R156 (decision D9), R389: from `Running`, only FX0A enters the latch, and only a stack condition under `fatal`
enters `Faulted`; a stack condition is the only fault output under either policy (R159). -/
def Obligations.RunStateMovesAsListed : Prop :=
  ∀ (i : Instr) (s t : State), s.rs = .running → exec i s = .next t →
    t.rs = runStateAfter s i ∧ t.out.unknownOpcode = s.out.unknownOpcode ∧
    t.out.fault = (stackCause s i).or s.out.fault

/-- R161: a step never writes `KEY`, and reads it only through EX9E and EXA1; `DT` and `ST` change only by FX15 and
FX18; `REDRAW` is neither cleared nor read. -/
def Obligations.StepTouchesKeysTimersAndRedrawAsListed : Prop :=
  ∀ s t : State, step s = .next t →
    t.key = s.key ∧
    ((∀ x : Nibble, decode s.fetchWord ≠ .ok (.skp x) ∧ decode s.fetchWord ≠ .ok (.sknp x)) →
      ∀ key : Vector Bool 16, step { s with key := key } = .next { t with key := key }) ∧
    ((∀ x : Nibble, decode s.fetchWord ≠ .ok (.ldDtX x)) → t.dt = s.dt) ∧
    ((∀ x : Nibble, decode s.fetchWord ≠ .ok (.ldStX x)) → t.st = s.st) ∧
    (s.redraw = true → t.redraw = true) ∧
    (∀ r : Bool, ∃ r' : Bool, step { s with redraw := r } = .next { t with redraw := r' })

/-- R51: `RS`, `SND_START`, `TONE`, `ACC` and `FAULT_PC` are readable by no instruction: changing them changes nothing
an instruction leaves but themselves (and the outputs, log 4). -/
def Obligations.ControlStateIsReadByNoInstruction : Prop :=
  ∀ (i : Instr) (s t : State) (rs : RunState) (snd tone : Bool) (acc : Fin 60) (faultPc : Word) (out : StepOut),
    exec i s = .next t →
    ∃ (rs' : RunState) (snd' tone' : Bool) (acc' : Fin 60) (faultPc' : Word) (out' : StepOut),
      exec i { s with rs := rs, sndStart := snd, tone := tone, acc := acc, faultPc := faultPc, out := out } =
        .next { t with rs := rs', sndStart := snd', tone := tone', acc := acc', faultPc := faultPc', out := out' }
end

