-- ==== Sys2Proof/Machine/Assembly.lean ====
section
/-! DEFINITION. The assembler syntax of the spec's programs (spec/30_encoding.md rules R122 and R123), as terms. No
operation of the core reads it. PRESUMED (log 21), safe: the spec takes the names from general knowledge (G4, G5). -/

namespace Sys2Proof.Machine

/-- The mnemonics of R122. -/
inductive Mnemonic where
  | cls | ret | sys | jp | call | se | sne | ld | add | or | and | xor | sub | shr | subn | shl | rnd | drw | skp | sknp
  deriving DecidableEq, Repr

/-- The operands of R122: `Vx`, `nn`, `nnn`, `n`, and the words `I`, `[I]`, `DT`, `ST`, `K`, `F`, `B`. The `V0` of
`JP V0, nnn` is the register 0. -/
inductive AsmOperand where
  | reg (x : Nibble)
  | byte (nn : Byte)
  | addr (nnn : Addr)
  | rows (n : Nibble)
  | i
  | atI
  | dt
  | st
  | k
  | f
  | b
  deriving DecidableEq, Repr

/-- One line of a listing: an instruction, or an unknown word as data, `DW 0xhhhh` (R123). -/
inductive AsmLine where
  | instr (mnemonic : Mnemonic) (operands : List AsmOperand)
  | data (w : Word)
  deriving DecidableEq, Repr

/-- How an instruction is written (R122); `SHR Vx` and `SHL Vx` leave Y out (R123). -/
def assembly : Instr → AsmLine
  | .cls => .instr .cls []
  | .ret => .instr .ret []
  | .sys nnn => .instr .sys [.addr nnn]
  | .jp nnn => .instr .jp [.addr nnn]
  | .call nnn => .instr .call [.addr nnn]
  | .seImm x nn => .instr .se [.reg x, .byte nn]
  | .sneImm x nn => .instr .sne [.reg x, .byte nn]
  | .seReg x y => .instr .se [.reg x, .reg y]
  | .ldImm x nn => .instr .ld [.reg x, .byte nn]
  | .addImm x nn => .instr .add [.reg x, .byte nn]
  | .ldReg x y => .instr .ld [.reg x, .reg y]
  | .orReg x y => .instr .or [.reg x, .reg y]
  | .andReg x y => .instr .and [.reg x, .reg y]
  | .xorReg x y => .instr .xor [.reg x, .reg y]
  | .addReg x y => .instr .add [.reg x, .reg y]
  | .sub x y => .instr .sub [.reg x, .reg y]
  | .shr x _ => .instr .shr [.reg x]
  | .subn x y => .instr .subn [.reg x, .reg y]
  | .shl x _ => .instr .shl [.reg x]
  | .sneReg x y => .instr .sne [.reg x, .reg y]
  | .ldI nnn => .instr .ld [.i, .addr nnn]
  | .jpV0 nnn => .instr .jp [.reg 0, .addr nnn]
  | .rnd x nn => .instr .rnd [.reg x, .byte nn]
  | .drw x y n => .instr .drw [.reg x, .reg y, .rows n]
  | .skp x => .instr .skp [.reg x]
  | .sknp x => .instr .sknp [.reg x]
  | .ldXDt x => .instr .ld [.reg x, .dt]
  | .ldXK x => .instr .ld [.reg x, .k]
  | .ldDtX x => .instr .ld [.dt, .reg x]
  | .ldStX x => .instr .ld [.st, .reg x]
  | .addIX x => .instr .add [.i, .reg x]
  | .ldFX x => .instr .ld [.f, .reg x]
  | .ldBX x => .instr .ld [.b, .reg x]
  | .ldMemX x => .instr .ld [.atI, .reg x]
  | .ldXMem x => .instr .ld [.reg x, .atI]

/-- How a word is written: its instruction, or `DW` for an unknown word (R123). -/
def assemblyOfWord (w : Word) : AsmLine :=
  match decode w with
  | .ok i => assembly i
  | .error _ => .data w

/-- The instruction a line names, if it names one: Y = 0 for `SHR` and `SHL`, and no `SYS` of 0x0E0 or 0x0EE (R123). -/
def parseInstr : Mnemonic → List AsmOperand → Option Instr
  | .cls, [] => some .cls
  | .ret, [] => some .ret
  | .sys, [.addr nnn] => if sysAddrOk nnn then some (.sys nnn) else none
  | .jp, [.addr nnn] => some (.jp nnn)
  | .jp, [.reg x, .addr nnn] => if x = 0 then some (.jpV0 nnn) else none
  | .call, [.addr nnn] => some (.call nnn)
  | .se, [.reg x, .byte nn] => some (.seImm x nn)
  | .se, [.reg x, .reg y] => some (.seReg x y)
  | .sne, [.reg x, .byte nn] => some (.sneImm x nn)
  | .sne, [.reg x, .reg y] => some (.sneReg x y)
  | .ld, [.reg x, .byte nn] => some (.ldImm x nn)
  | .ld, [.reg x, .reg y] => some (.ldReg x y)
  | .ld, [.i, .addr nnn] => some (.ldI nnn)
  | .ld, [.reg x, .dt] => some (.ldXDt x)
  | .ld, [.reg x, .k] => some (.ldXK x)
  | .ld, [.reg x, .atI] => some (.ldXMem x)
  | .ld, [.dt, .reg x] => some (.ldDtX x)
  | .ld, [.st, .reg x] => some (.ldStX x)
  | .ld, [.f, .reg x] => some (.ldFX x)
  | .ld, [.b, .reg x] => some (.ldBX x)
  | .ld, [.atI, .reg x] => some (.ldMemX x)
  | .add, [.reg x, .byte nn] => some (.addImm x nn)
  | .add, [.reg x, .reg y] => some (.addReg x y)
  | .add, [.i, .reg x] => some (.addIX x)
  | .or, [.reg x, .reg y] => some (.orReg x y)
  | .and, [.reg x, .reg y] => some (.andReg x y)
  | .xor, [.reg x, .reg y] => some (.xorReg x y)
  | .sub, [.reg x, .reg y] => some (.sub x y)
  | .subn, [.reg x, .reg y] => some (.subn x y)
  | .shr, [.reg x] => some (.shr x 0)
  | .shl, [.reg x] => some (.shl x 0)
  | .rnd, [.reg x, .byte nn] => some (.rnd x nn)
  | .drw, [.reg x, .reg y, .rows n] => some (.drw x y n)
  | .skp, [.reg x] => some (.skp x)
  | .sknp, [.reg x] => some (.sknp x)
  | _, _ => none

/-- The word a line stands for. -/
def assemble : AsmLine → Option Word
  | .instr m ops => (parseInstr m ops).map encode
  | .data w => some w

end Sys2Proof.Machine
end

