-- ==== Sys2Proof/Laws/Assembly.lean ====
section
/-! SUPPORT. The assembler syntax reads back: a line names the instruction it was written for, with Y = 0 where the
syntax leaves Y out (spec/30_encoding.md rule R123). -/

namespace Sys2Proof.Machine

/-- A well-formed instruction whose ignored Y is 0 is what its line names. -/
theorem parseInstr_assembly (i : Instr) (h : WellFormed i = true) (hr : ∀ x y, i = .shr x y → y = 0)
    (hl : ∀ x y, i = .shl x y → y = 0) : ∃ m ops, assembly i = .instr m ops ∧ parseInstr m ops = some i := by
  cases i with
  | shr x y => exact ⟨_, _, rfl, by rw [hr x y rfl]; rfl⟩
  | shl x y => exact ⟨_, _, rfl, by rw [hl x y rfl]; rfl⟩
  | sys nnn => exact ⟨_, _, rfl, if_pos h⟩
  | _ => exact ⟨_, _, rfl, rfl⟩

end Sys2Proof.Machine
end

