-- ==== Sys2Proof/Laws/State.lean ====
section
/-! SUPPORT. What each update of the state does to each field, and to the reads it leaves alone: one lemma each, true by
`rfl`, so that no proof unfolds a record update. -/

namespace Sys2Proof.Machine

variable (s : State)

/-! ### `writeMem` -/

@[simp] theorem State.writeMem_cfg (a : Addr) (b : Byte) : (s.writeMem a b).cfg = s.cfg := rfl
@[simp] theorem State.writeMem_mem (a : Addr) (b : Byte) : (s.writeMem a b).mem = Memory.write s.cfg s.mem a b := rfl
@[simp] theorem State.writeMem_v (a : Addr) (b : Byte) : (s.writeMem a b).v = s.v := rfl
@[simp] theorem State.writeMem_i (a : Addr) (b : Byte) : (s.writeMem a b).i = s.i := rfl
@[simp] theorem State.writeMem_pc (a : Addr) (b : Byte) : (s.writeMem a b).pc = s.pc := rfl
@[simp] theorem State.writeMem_stack (a : Addr) (b : Byte) : (s.writeMem a b).stack = s.stack := rfl
@[simp] theorem State.writeMem_sp (a : Addr) (b : Byte) : (s.writeMem a b).sp = s.sp := rfl
@[simp] theorem State.writeMem_dt (a : Addr) (b : Byte) : (s.writeMem a b).dt = s.dt := rfl
@[simp] theorem State.writeMem_st (a : Addr) (b : Byte) : (s.writeMem a b).st = s.st := rfl
@[simp] theorem State.writeMem_key (a : Addr) (b : Byte) : (s.writeMem a b).key = s.key := rfl
@[simp] theorem State.writeMem_disp (a : Addr) (b : Byte) : (s.writeMem a b).disp = s.disp := rfl
@[simp] theorem State.writeMem_rs (a : Addr) (b : Byte) : (s.writeMem a b).rs = s.rs := rfl
@[simp] theorem State.writeMem_redraw (a : Addr) (b : Byte) : (s.writeMem a b).redraw = s.redraw := rfl
@[simp] theorem State.writeMem_sndStart (a : Addr) (b : Byte) : (s.writeMem a b).sndStart = s.sndStart := rfl
@[simp] theorem State.writeMem_tone (a : Addr) (b : Byte) : (s.writeMem a b).tone = s.tone := rfl
@[simp] theorem State.writeMem_acc (a : Addr) (b : Byte) : (s.writeMem a b).acc = s.acc := rfl
@[simp] theorem State.writeMem_faultPc (a : Addr) (b : Byte) : (s.writeMem a b).faultPc = s.faultPc := rfl
@[simp] theorem State.writeMem_draws (a : Addr) (b : Byte) : (s.writeMem a b).draws = s.draws := rfl
@[simp] theorem State.writeMem_out (a : Addr) (b : Byte) : (s.writeMem a b).out = s.out := rfl
@[simp] theorem State.writeMem_getV (a : Addr) (b : Byte) (x' : Nibble) : (s.writeMem a b).getV x' = s.getV x' := rfl
@[simp] theorem State.writeMem_getKey (a : Addr) (b : Byte) (k' : Nibble) : (s.writeMem a b).getKey k' = s.getKey k' := rfl
@[simp] theorem State.writeMem_pcPlus (a : Addr) (b : Byte) (w : Word) : (s.writeMem a b).pcPlus w = s.pcPlus w := rfl
@[simp] theorem State.writeMem_addrI (a : Addr) (b : Byte) (k' : Nat) : (s.writeMem a b).addrI k' = s.addrI k' := rfl

/-! ### `setV` -/

@[simp] theorem State.setV_cfg (x : Nibble) (b : Byte) : (s.setV x b).cfg = s.cfg := rfl
@[simp] theorem State.setV_mem (x : Nibble) (b : Byte) : (s.setV x b).mem = s.mem := rfl
@[simp] theorem State.setV_v (x : Nibble) (b : Byte) : (s.setV x b).v = s.v.set x.toNat b x.isLt := rfl
@[simp] theorem State.setV_i (x : Nibble) (b : Byte) : (s.setV x b).i = s.i := rfl
@[simp] theorem State.setV_pc (x : Nibble) (b : Byte) : (s.setV x b).pc = s.pc := rfl
@[simp] theorem State.setV_stack (x : Nibble) (b : Byte) : (s.setV x b).stack = s.stack := rfl
@[simp] theorem State.setV_sp (x : Nibble) (b : Byte) : (s.setV x b).sp = s.sp := rfl
@[simp] theorem State.setV_dt (x : Nibble) (b : Byte) : (s.setV x b).dt = s.dt := rfl
@[simp] theorem State.setV_st (x : Nibble) (b : Byte) : (s.setV x b).st = s.st := rfl
@[simp] theorem State.setV_key (x : Nibble) (b : Byte) : (s.setV x b).key = s.key := rfl
@[simp] theorem State.setV_disp (x : Nibble) (b : Byte) : (s.setV x b).disp = s.disp := rfl
@[simp] theorem State.setV_rs (x : Nibble) (b : Byte) : (s.setV x b).rs = s.rs := rfl
@[simp] theorem State.setV_redraw (x : Nibble) (b : Byte) : (s.setV x b).redraw = s.redraw := rfl
@[simp] theorem State.setV_sndStart (x : Nibble) (b : Byte) : (s.setV x b).sndStart = s.sndStart := rfl
@[simp] theorem State.setV_tone (x : Nibble) (b : Byte) : (s.setV x b).tone = s.tone := rfl
@[simp] theorem State.setV_acc (x : Nibble) (b : Byte) : (s.setV x b).acc = s.acc := rfl
@[simp] theorem State.setV_faultPc (x : Nibble) (b : Byte) : (s.setV x b).faultPc = s.faultPc := rfl
@[simp] theorem State.setV_draws (x : Nibble) (b : Byte) : (s.setV x b).draws = s.draws := rfl
@[simp] theorem State.setV_out (x : Nibble) (b : Byte) : (s.setV x b).out = s.out := rfl
@[simp] theorem State.setV_readMem (x : Nibble) (b : Byte) (a' : Addr) : (s.setV x b).readMem a' = s.readMem a' := rfl
@[simp] theorem State.setV_getKey (x : Nibble) (b : Byte) (k' : Nibble) : (s.setV x b).getKey k' = s.getKey k' := rfl
@[simp] theorem State.setV_pcPlus (x : Nibble) (b : Byte) (w : Word) : (s.setV x b).pcPlus w = s.pcPlus w := rfl
@[simp] theorem State.setV_addrI (x : Nibble) (b : Byte) (k' : Nat) : (s.setV x b).addrI k' = s.addrI k' := rfl
@[simp] theorem State.setV_readAtI (x : Nibble) (b : Byte) (k' : Nat) : (s.setV x b).readAtI k' = s.readAtI k' := rfl
@[simp] theorem State.setV_fetchWord (x : Nibble) (b : Byte) : (s.setV x b).fetchWord = s.fetchWord := rfl

/-! ### `setI` -/

@[simp] theorem State.setI_cfg (a : Addr) : (s.setI a).cfg = s.cfg := rfl
@[simp] theorem State.setI_mem (a : Addr) : (s.setI a).mem = s.mem := rfl
@[simp] theorem State.setI_v (a : Addr) : (s.setI a).v = s.v := rfl
@[simp] theorem State.setI_i (a : Addr) : (s.setI a).i = a.setWidth 16 := rfl
@[simp] theorem State.setI_pc (a : Addr) : (s.setI a).pc = s.pc := rfl
@[simp] theorem State.setI_stack (a : Addr) : (s.setI a).stack = s.stack := rfl
@[simp] theorem State.setI_sp (a : Addr) : (s.setI a).sp = s.sp := rfl
@[simp] theorem State.setI_dt (a : Addr) : (s.setI a).dt = s.dt := rfl
@[simp] theorem State.setI_st (a : Addr) : (s.setI a).st = s.st := rfl
@[simp] theorem State.setI_key (a : Addr) : (s.setI a).key = s.key := rfl
@[simp] theorem State.setI_disp (a : Addr) : (s.setI a).disp = s.disp := rfl
@[simp] theorem State.setI_rs (a : Addr) : (s.setI a).rs = s.rs := rfl
@[simp] theorem State.setI_redraw (a : Addr) : (s.setI a).redraw = s.redraw := rfl
@[simp] theorem State.setI_sndStart (a : Addr) : (s.setI a).sndStart = s.sndStart := rfl
@[simp] theorem State.setI_tone (a : Addr) : (s.setI a).tone = s.tone := rfl
@[simp] theorem State.setI_acc (a : Addr) : (s.setI a).acc = s.acc := rfl
@[simp] theorem State.setI_faultPc (a : Addr) : (s.setI a).faultPc = s.faultPc := rfl
@[simp] theorem State.setI_draws (a : Addr) : (s.setI a).draws = s.draws := rfl
@[simp] theorem State.setI_out (a : Addr) : (s.setI a).out = s.out := rfl
@[simp] theorem State.setI_readMem (a : Addr) (a' : Addr) : (s.setI a).readMem a' = s.readMem a' := rfl
@[simp] theorem State.setI_getV (a : Addr) (x' : Nibble) : (s.setI a).getV x' = s.getV x' := rfl
@[simp] theorem State.setI_getKey (a : Addr) (k' : Nibble) : (s.setI a).getKey k' = s.getKey k' := rfl
@[simp] theorem State.setI_pcPlus (a : Addr) (w : Word) : (s.setI a).pcPlus w = s.pcPlus w := rfl
@[simp] theorem State.setI_fetchWord (a : Addr) : (s.setI a).fetchWord = s.fetchWord := rfl

/-! ### `setPc` -/

@[simp] theorem State.setPc_cfg (a : Addr) : (s.setPc a).cfg = s.cfg := rfl
@[simp] theorem State.setPc_mem (a : Addr) : (s.setPc a).mem = s.mem := rfl
@[simp] theorem State.setPc_v (a : Addr) : (s.setPc a).v = s.v := rfl
@[simp] theorem State.setPc_i (a : Addr) : (s.setPc a).i = s.i := rfl
@[simp] theorem State.setPc_pc (a : Addr) : (s.setPc a).pc = a.setWidth 16 := rfl
@[simp] theorem State.setPc_stack (a : Addr) : (s.setPc a).stack = s.stack := rfl
@[simp] theorem State.setPc_sp (a : Addr) : (s.setPc a).sp = s.sp := rfl
@[simp] theorem State.setPc_dt (a : Addr) : (s.setPc a).dt = s.dt := rfl
@[simp] theorem State.setPc_st (a : Addr) : (s.setPc a).st = s.st := rfl
@[simp] theorem State.setPc_key (a : Addr) : (s.setPc a).key = s.key := rfl
@[simp] theorem State.setPc_disp (a : Addr) : (s.setPc a).disp = s.disp := rfl
@[simp] theorem State.setPc_rs (a : Addr) : (s.setPc a).rs = s.rs := rfl
@[simp] theorem State.setPc_redraw (a : Addr) : (s.setPc a).redraw = s.redraw := rfl
@[simp] theorem State.setPc_sndStart (a : Addr) : (s.setPc a).sndStart = s.sndStart := rfl
@[simp] theorem State.setPc_tone (a : Addr) : (s.setPc a).tone = s.tone := rfl
@[simp] theorem State.setPc_acc (a : Addr) : (s.setPc a).acc = s.acc := rfl
@[simp] theorem State.setPc_faultPc (a : Addr) : (s.setPc a).faultPc = s.faultPc := rfl
@[simp] theorem State.setPc_draws (a : Addr) : (s.setPc a).draws = s.draws := rfl
@[simp] theorem State.setPc_out (a : Addr) : (s.setPc a).out = s.out := rfl
@[simp] theorem State.setPc_readMem (a : Addr) (a' : Addr) : (s.setPc a).readMem a' = s.readMem a' := rfl
@[simp] theorem State.setPc_getV (a : Addr) (x' : Nibble) : (s.setPc a).getV x' = s.getV x' := rfl
@[simp] theorem State.setPc_getKey (a : Addr) (k' : Nibble) : (s.setPc a).getKey k' = s.getKey k' := rfl
@[simp] theorem State.setPc_addrI (a : Addr) (k' : Nat) : (s.setPc a).addrI k' = s.addrI k' := rfl
@[simp] theorem State.setPc_readAtI (a : Addr) (k' : Nat) : (s.setPc a).readAtI k' = s.readAtI k' := rfl

/-! ### `setDt` -/

@[simp] theorem State.setDt_cfg (b : Byte) : (s.setDt b).cfg = s.cfg := rfl
@[simp] theorem State.setDt_mem (b : Byte) : (s.setDt b).mem = s.mem := rfl
@[simp] theorem State.setDt_v (b : Byte) : (s.setDt b).v = s.v := rfl
@[simp] theorem State.setDt_i (b : Byte) : (s.setDt b).i = s.i := rfl
@[simp] theorem State.setDt_pc (b : Byte) : (s.setDt b).pc = s.pc := rfl
@[simp] theorem State.setDt_stack (b : Byte) : (s.setDt b).stack = s.stack := rfl
@[simp] theorem State.setDt_sp (b : Byte) : (s.setDt b).sp = s.sp := rfl
@[simp] theorem State.setDt_dt (b : Byte) : (s.setDt b).dt = b := rfl
@[simp] theorem State.setDt_st (b : Byte) : (s.setDt b).st = s.st := rfl
@[simp] theorem State.setDt_key (b : Byte) : (s.setDt b).key = s.key := rfl
@[simp] theorem State.setDt_disp (b : Byte) : (s.setDt b).disp = s.disp := rfl
@[simp] theorem State.setDt_rs (b : Byte) : (s.setDt b).rs = s.rs := rfl
@[simp] theorem State.setDt_redraw (b : Byte) : (s.setDt b).redraw = s.redraw := rfl
@[simp] theorem State.setDt_sndStart (b : Byte) : (s.setDt b).sndStart = s.sndStart := rfl
@[simp] theorem State.setDt_tone (b : Byte) : (s.setDt b).tone = s.tone := rfl
@[simp] theorem State.setDt_acc (b : Byte) : (s.setDt b).acc = s.acc := rfl
@[simp] theorem State.setDt_faultPc (b : Byte) : (s.setDt b).faultPc = s.faultPc := rfl
@[simp] theorem State.setDt_draws (b : Byte) : (s.setDt b).draws = s.draws := rfl
@[simp] theorem State.setDt_out (b : Byte) : (s.setDt b).out = s.out := rfl
@[simp] theorem State.setDt_readMem (b : Byte) (a' : Addr) : (s.setDt b).readMem a' = s.readMem a' := rfl
@[simp] theorem State.setDt_getV (b : Byte) (x' : Nibble) : (s.setDt b).getV x' = s.getV x' := rfl
@[simp] theorem State.setDt_getKey (b : Byte) (k' : Nibble) : (s.setDt b).getKey k' = s.getKey k' := rfl
@[simp] theorem State.setDt_pcPlus (b : Byte) (w : Word) : (s.setDt b).pcPlus w = s.pcPlus w := rfl
@[simp] theorem State.setDt_addrI (b : Byte) (k' : Nat) : (s.setDt b).addrI k' = s.addrI k' := rfl
@[simp] theorem State.setDt_readAtI (b : Byte) (k' : Nat) : (s.setDt b).readAtI k' = s.readAtI k' := rfl
@[simp] theorem State.setDt_fetchWord (b : Byte) : (s.setDt b).fetchWord = s.fetchWord := rfl

/-! ### `setSt` -/

@[simp] theorem State.setSt_cfg (b : Byte) : (s.setSt b).cfg = s.cfg := rfl
@[simp] theorem State.setSt_mem (b : Byte) : (s.setSt b).mem = s.mem := rfl
@[simp] theorem State.setSt_v (b : Byte) : (s.setSt b).v = s.v := rfl
@[simp] theorem State.setSt_i (b : Byte) : (s.setSt b).i = s.i := rfl
@[simp] theorem State.setSt_pc (b : Byte) : (s.setSt b).pc = s.pc := rfl
@[simp] theorem State.setSt_stack (b : Byte) : (s.setSt b).stack = s.stack := rfl
@[simp] theorem State.setSt_sp (b : Byte) : (s.setSt b).sp = s.sp := rfl
@[simp] theorem State.setSt_dt (b : Byte) : (s.setSt b).dt = s.dt := rfl
@[simp] theorem State.setSt_st (b : Byte) : (s.setSt b).st = b := rfl
@[simp] theorem State.setSt_key (b : Byte) : (s.setSt b).key = s.key := rfl
@[simp] theorem State.setSt_disp (b : Byte) : (s.setSt b).disp = s.disp := rfl
@[simp] theorem State.setSt_rs (b : Byte) : (s.setSt b).rs = s.rs := rfl
@[simp] theorem State.setSt_redraw (b : Byte) : (s.setSt b).redraw = s.redraw := rfl
@[simp] theorem State.setSt_sndStart (b : Byte) : (s.setSt b).sndStart = s.sndStart := rfl
@[simp] theorem State.setSt_tone (b : Byte) : (s.setSt b).tone = s.tone := rfl
@[simp] theorem State.setSt_acc (b : Byte) : (s.setSt b).acc = s.acc := rfl
@[simp] theorem State.setSt_faultPc (b : Byte) : (s.setSt b).faultPc = s.faultPc := rfl
@[simp] theorem State.setSt_draws (b : Byte) : (s.setSt b).draws = s.draws := rfl
@[simp] theorem State.setSt_out (b : Byte) : (s.setSt b).out = s.out := rfl
@[simp] theorem State.setSt_readMem (b : Byte) (a' : Addr) : (s.setSt b).readMem a' = s.readMem a' := rfl
@[simp] theorem State.setSt_getV (b : Byte) (x' : Nibble) : (s.setSt b).getV x' = s.getV x' := rfl
@[simp] theorem State.setSt_getKey (b : Byte) (k' : Nibble) : (s.setSt b).getKey k' = s.getKey k' := rfl
@[simp] theorem State.setSt_pcPlus (b : Byte) (w : Word) : (s.setSt b).pcPlus w = s.pcPlus w := rfl
@[simp] theorem State.setSt_addrI (b : Byte) (k' : Nat) : (s.setSt b).addrI k' = s.addrI k' := rfl
@[simp] theorem State.setSt_readAtI (b : Byte) (k' : Nat) : (s.setSt b).readAtI k' = s.readAtI k' := rfl
@[simp] theorem State.setSt_fetchWord (b : Byte) : (s.setSt b).fetchWord = s.fetchWord := rfl

/-! ### `setSndStart` -/

@[simp] theorem State.setSndStart_cfg (b : Bool) : (s.setSndStart b).cfg = s.cfg := rfl
@[simp] theorem State.setSndStart_mem (b : Bool) : (s.setSndStart b).mem = s.mem := rfl
@[simp] theorem State.setSndStart_v (b : Bool) : (s.setSndStart b).v = s.v := rfl
@[simp] theorem State.setSndStart_i (b : Bool) : (s.setSndStart b).i = s.i := rfl
@[simp] theorem State.setSndStart_pc (b : Bool) : (s.setSndStart b).pc = s.pc := rfl
@[simp] theorem State.setSndStart_stack (b : Bool) : (s.setSndStart b).stack = s.stack := rfl
@[simp] theorem State.setSndStart_sp (b : Bool) : (s.setSndStart b).sp = s.sp := rfl
@[simp] theorem State.setSndStart_dt (b : Bool) : (s.setSndStart b).dt = s.dt := rfl
@[simp] theorem State.setSndStart_st (b : Bool) : (s.setSndStart b).st = s.st := rfl
@[simp] theorem State.setSndStart_key (b : Bool) : (s.setSndStart b).key = s.key := rfl
@[simp] theorem State.setSndStart_disp (b : Bool) : (s.setSndStart b).disp = s.disp := rfl
@[simp] theorem State.setSndStart_rs (b : Bool) : (s.setSndStart b).rs = s.rs := rfl
@[simp] theorem State.setSndStart_redraw (b : Bool) : (s.setSndStart b).redraw = s.redraw := rfl
@[simp] theorem State.setSndStart_sndStart (b : Bool) : (s.setSndStart b).sndStart = b := rfl
@[simp] theorem State.setSndStart_tone (b : Bool) : (s.setSndStart b).tone = s.tone := rfl
@[simp] theorem State.setSndStart_acc (b : Bool) : (s.setSndStart b).acc = s.acc := rfl
@[simp] theorem State.setSndStart_faultPc (b : Bool) : (s.setSndStart b).faultPc = s.faultPc := rfl
@[simp] theorem State.setSndStart_draws (b : Bool) : (s.setSndStart b).draws = s.draws := rfl
@[simp] theorem State.setSndStart_out (b : Bool) : (s.setSndStart b).out = s.out := rfl
@[simp] theorem State.setSndStart_readMem (b : Bool) (a' : Addr) : (s.setSndStart b).readMem a' = s.readMem a' := rfl
@[simp] theorem State.setSndStart_getV (b : Bool) (x' : Nibble) : (s.setSndStart b).getV x' = s.getV x' := rfl
@[simp] theorem State.setSndStart_getKey (b : Bool) (k' : Nibble) : (s.setSndStart b).getKey k' = s.getKey k' := rfl
@[simp] theorem State.setSndStart_pcPlus (b : Bool) (w : Word) : (s.setSndStart b).pcPlus w = s.pcPlus w := rfl
@[simp] theorem State.setSndStart_addrI (b : Bool) (k' : Nat) : (s.setSndStart b).addrI k' = s.addrI k' := rfl
@[simp] theorem State.setSndStart_readAtI (b : Bool) (k' : Nat) : (s.setSndStart b).readAtI k' = s.readAtI k' := rfl
@[simp] theorem State.setSndStart_fetchWord (b : Bool) : (s.setSndStart b).fetchWord = s.fetchWord := rfl

/-! ### `setRs` -/

@[simp] theorem State.setRs_cfg (r : RunState) : (s.setRs r).cfg = s.cfg := rfl
@[simp] theorem State.setRs_mem (r : RunState) : (s.setRs r).mem = s.mem := rfl
@[simp] theorem State.setRs_v (r : RunState) : (s.setRs r).v = s.v := rfl
@[simp] theorem State.setRs_i (r : RunState) : (s.setRs r).i = s.i := rfl
@[simp] theorem State.setRs_pc (r : RunState) : (s.setRs r).pc = s.pc := rfl
@[simp] theorem State.setRs_stack (r : RunState) : (s.setRs r).stack = s.stack := rfl
@[simp] theorem State.setRs_sp (r : RunState) : (s.setRs r).sp = s.sp := rfl
@[simp] theorem State.setRs_dt (r : RunState) : (s.setRs r).dt = s.dt := rfl
@[simp] theorem State.setRs_st (r : RunState) : (s.setRs r).st = s.st := rfl
@[simp] theorem State.setRs_key (r : RunState) : (s.setRs r).key = s.key := rfl
@[simp] theorem State.setRs_disp (r : RunState) : (s.setRs r).disp = s.disp := rfl
@[simp] theorem State.setRs_rs (r : RunState) : (s.setRs r).rs = r := rfl
@[simp] theorem State.setRs_redraw (r : RunState) : (s.setRs r).redraw = s.redraw := rfl
@[simp] theorem State.setRs_sndStart (r : RunState) : (s.setRs r).sndStart = s.sndStart := rfl
@[simp] theorem State.setRs_tone (r : RunState) : (s.setRs r).tone = s.tone := rfl
@[simp] theorem State.setRs_acc (r : RunState) : (s.setRs r).acc = s.acc := rfl
@[simp] theorem State.setRs_faultPc (r : RunState) : (s.setRs r).faultPc = s.faultPc := rfl
@[simp] theorem State.setRs_draws (r : RunState) : (s.setRs r).draws = s.draws := rfl
@[simp] theorem State.setRs_out (r : RunState) : (s.setRs r).out = s.out := rfl
@[simp] theorem State.setRs_readMem (r : RunState) (a' : Addr) : (s.setRs r).readMem a' = s.readMem a' := rfl
@[simp] theorem State.setRs_getV (r : RunState) (x' : Nibble) : (s.setRs r).getV x' = s.getV x' := rfl
@[simp] theorem State.setRs_getKey (r : RunState) (k' : Nibble) : (s.setRs r).getKey k' = s.getKey k' := rfl
@[simp] theorem State.setRs_pcPlus (r : RunState) (w : Word) : (s.setRs r).pcPlus w = s.pcPlus w := rfl
@[simp] theorem State.setRs_addrI (r : RunState) (k' : Nat) : (s.setRs r).addrI k' = s.addrI k' := rfl
@[simp] theorem State.setRs_readAtI (r : RunState) (k' : Nat) : (s.setRs r).readAtI k' = s.readAtI k' := rfl
@[simp] theorem State.setRs_fetchWord (r : RunState) : (s.setRs r).fetchWord = s.fetchWord := rfl

/-! ### `setDisp` -/

@[simp] theorem State.setDisp_cfg (d : Display) : (s.setDisp d).cfg = s.cfg := rfl
@[simp] theorem State.setDisp_mem (d : Display) : (s.setDisp d).mem = s.mem := rfl
@[simp] theorem State.setDisp_v (d : Display) : (s.setDisp d).v = s.v := rfl
@[simp] theorem State.setDisp_i (d : Display) : (s.setDisp d).i = s.i := rfl
@[simp] theorem State.setDisp_pc (d : Display) : (s.setDisp d).pc = s.pc := rfl
@[simp] theorem State.setDisp_stack (d : Display) : (s.setDisp d).stack = s.stack := rfl
@[simp] theorem State.setDisp_sp (d : Display) : (s.setDisp d).sp = s.sp := rfl
@[simp] theorem State.setDisp_dt (d : Display) : (s.setDisp d).dt = s.dt := rfl
@[simp] theorem State.setDisp_st (d : Display) : (s.setDisp d).st = s.st := rfl
@[simp] theorem State.setDisp_key (d : Display) : (s.setDisp d).key = s.key := rfl
@[simp] theorem State.setDisp_disp (d : Display) : (s.setDisp d).disp = d := rfl
@[simp] theorem State.setDisp_rs (d : Display) : (s.setDisp d).rs = s.rs := rfl
@[simp] theorem State.setDisp_redraw (d : Display) : (s.setDisp d).redraw = s.redraw := rfl
@[simp] theorem State.setDisp_sndStart (d : Display) : (s.setDisp d).sndStart = s.sndStart := rfl
@[simp] theorem State.setDisp_tone (d : Display) : (s.setDisp d).tone = s.tone := rfl
@[simp] theorem State.setDisp_acc (d : Display) : (s.setDisp d).acc = s.acc := rfl
@[simp] theorem State.setDisp_faultPc (d : Display) : (s.setDisp d).faultPc = s.faultPc := rfl
@[simp] theorem State.setDisp_draws (d : Display) : (s.setDisp d).draws = s.draws := rfl
@[simp] theorem State.setDisp_out (d : Display) : (s.setDisp d).out = s.out := rfl
@[simp] theorem State.setDisp_readMem (d : Display) (a' : Addr) : (s.setDisp d).readMem a' = s.readMem a' := rfl
@[simp] theorem State.setDisp_getV (d : Display) (x' : Nibble) : (s.setDisp d).getV x' = s.getV x' := rfl
@[simp] theorem State.setDisp_getKey (d : Display) (k' : Nibble) : (s.setDisp d).getKey k' = s.getKey k' := rfl
@[simp] theorem State.setDisp_pcPlus (d : Display) (w : Word) : (s.setDisp d).pcPlus w = s.pcPlus w := rfl
@[simp] theorem State.setDisp_addrI (d : Display) (k' : Nat) : (s.setDisp d).addrI k' = s.addrI k' := rfl
@[simp] theorem State.setDisp_readAtI (d : Display) (k' : Nat) : (s.setDisp d).readAtI k' = s.readAtI k' := rfl
@[simp] theorem State.setDisp_fetchWord (d : Display) : (s.setDisp d).fetchWord = s.fetchWord := rfl

/-! ### `requestRedraw` -/

@[simp] theorem State.requestRedraw_cfg : (s.requestRedraw).cfg = s.cfg := rfl
@[simp] theorem State.requestRedraw_mem : (s.requestRedraw).mem = s.mem := rfl
@[simp] theorem State.requestRedraw_v : (s.requestRedraw).v = s.v := rfl
@[simp] theorem State.requestRedraw_i : (s.requestRedraw).i = s.i := rfl
@[simp] theorem State.requestRedraw_pc : (s.requestRedraw).pc = s.pc := rfl
@[simp] theorem State.requestRedraw_stack : (s.requestRedraw).stack = s.stack := rfl
@[simp] theorem State.requestRedraw_sp : (s.requestRedraw).sp = s.sp := rfl
@[simp] theorem State.requestRedraw_dt : (s.requestRedraw).dt = s.dt := rfl
@[simp] theorem State.requestRedraw_st : (s.requestRedraw).st = s.st := rfl
@[simp] theorem State.requestRedraw_key : (s.requestRedraw).key = s.key := rfl
@[simp] theorem State.requestRedraw_disp : (s.requestRedraw).disp = s.disp := rfl
@[simp] theorem State.requestRedraw_rs : (s.requestRedraw).rs = s.rs := rfl
@[simp] theorem State.requestRedraw_redraw : (s.requestRedraw).redraw = true := rfl
@[simp] theorem State.requestRedraw_sndStart : (s.requestRedraw).sndStart = s.sndStart := rfl
@[simp] theorem State.requestRedraw_tone : (s.requestRedraw).tone = s.tone := rfl
@[simp] theorem State.requestRedraw_acc : (s.requestRedraw).acc = s.acc := rfl
@[simp] theorem State.requestRedraw_faultPc : (s.requestRedraw).faultPc = s.faultPc := rfl
@[simp] theorem State.requestRedraw_draws : (s.requestRedraw).draws = s.draws := rfl
@[simp] theorem State.requestRedraw_out : (s.requestRedraw).out = s.out := rfl
@[simp] theorem State.requestRedraw_readMem (a' : Addr) : (s.requestRedraw).readMem a' = s.readMem a' := rfl
@[simp] theorem State.requestRedraw_getV (x' : Nibble) : (s.requestRedraw).getV x' = s.getV x' := rfl
@[simp] theorem State.requestRedraw_getKey (k' : Nibble) : (s.requestRedraw).getKey k' = s.getKey k' := rfl
@[simp] theorem State.requestRedraw_pcPlus (w : Word) : (s.requestRedraw).pcPlus w = s.pcPlus w := rfl
@[simp] theorem State.requestRedraw_addrI (k' : Nat) : (s.requestRedraw).addrI k' = s.addrI k' := rfl
@[simp] theorem State.requestRedraw_readAtI (k' : Nat) : (s.requestRedraw).readAtI k' = s.readAtI k' := rfl
@[simp] theorem State.requestRedraw_fetchWord : (s.requestRedraw).fetchWord = s.fetchWord := rfl

/-! ### `setKey` -/

@[simp] theorem State.setKey_cfg (k : Nibble) (p : Bool) : (s.setKey k p).cfg = s.cfg := rfl
@[simp] theorem State.setKey_mem (k : Nibble) (p : Bool) : (s.setKey k p).mem = s.mem := rfl
@[simp] theorem State.setKey_v (k : Nibble) (p : Bool) : (s.setKey k p).v = s.v := rfl
@[simp] theorem State.setKey_i (k : Nibble) (p : Bool) : (s.setKey k p).i = s.i := rfl
@[simp] theorem State.setKey_pc (k : Nibble) (p : Bool) : (s.setKey k p).pc = s.pc := rfl
@[simp] theorem State.setKey_stack (k : Nibble) (p : Bool) : (s.setKey k p).stack = s.stack := rfl
@[simp] theorem State.setKey_sp (k : Nibble) (p : Bool) : (s.setKey k p).sp = s.sp := rfl
@[simp] theorem State.setKey_dt (k : Nibble) (p : Bool) : (s.setKey k p).dt = s.dt := rfl
@[simp] theorem State.setKey_st (k : Nibble) (p : Bool) : (s.setKey k p).st = s.st := rfl
@[simp] theorem State.setKey_key (k : Nibble) (p : Bool) : (s.setKey k p).key = s.key.set k.toNat p k.isLt := rfl
@[simp] theorem State.setKey_disp (k : Nibble) (p : Bool) : (s.setKey k p).disp = s.disp := rfl
@[simp] theorem State.setKey_rs (k : Nibble) (p : Bool) : (s.setKey k p).rs = s.rs := rfl
@[simp] theorem State.setKey_redraw (k : Nibble) (p : Bool) : (s.setKey k p).redraw = s.redraw := rfl
@[simp] theorem State.setKey_sndStart (k : Nibble) (p : Bool) : (s.setKey k p).sndStart = s.sndStart := rfl
@[simp] theorem State.setKey_tone (k : Nibble) (p : Bool) : (s.setKey k p).tone = s.tone := rfl
@[simp] theorem State.setKey_acc (k : Nibble) (p : Bool) : (s.setKey k p).acc = s.acc := rfl
@[simp] theorem State.setKey_faultPc (k : Nibble) (p : Bool) : (s.setKey k p).faultPc = s.faultPc := rfl
@[simp] theorem State.setKey_draws (k : Nibble) (p : Bool) : (s.setKey k p).draws = s.draws := rfl
@[simp] theorem State.setKey_out (k : Nibble) (p : Bool) : (s.setKey k p).out = s.out := rfl
@[simp] theorem State.setKey_readMem (k : Nibble) (p : Bool) (a' : Addr) : (s.setKey k p).readMem a' = s.readMem a' := rfl
@[simp] theorem State.setKey_getV (k : Nibble) (p : Bool) (x' : Nibble) : (s.setKey k p).getV x' = s.getV x' := rfl
@[simp] theorem State.setKey_pcPlus (k : Nibble) (p : Bool) (w : Word) : (s.setKey k p).pcPlus w = s.pcPlus w := rfl
@[simp] theorem State.setKey_addrI (k : Nibble) (p : Bool) (k' : Nat) : (s.setKey k p).addrI k' = s.addrI k' := rfl
@[simp] theorem State.setKey_readAtI (k : Nibble) (p : Bool) (k' : Nat) : (s.setKey k p).readAtI k' = s.readAtI k' := rfl
@[simp] theorem State.setKey_fetchWord (k : Nibble) (p : Bool) : (s.setKey k p).fetchWord = s.fetchWord := rfl

/-! ### `setOut` -/

@[simp] theorem State.setOut_cfg (o : StepOut) : (s.setOut o).cfg = s.cfg := rfl
@[simp] theorem State.setOut_mem (o : StepOut) : (s.setOut o).mem = s.mem := rfl
@[simp] theorem State.setOut_v (o : StepOut) : (s.setOut o).v = s.v := rfl
@[simp] theorem State.setOut_i (o : StepOut) : (s.setOut o).i = s.i := rfl
@[simp] theorem State.setOut_pc (o : StepOut) : (s.setOut o).pc = s.pc := rfl
@[simp] theorem State.setOut_stack (o : StepOut) : (s.setOut o).stack = s.stack := rfl
@[simp] theorem State.setOut_sp (o : StepOut) : (s.setOut o).sp = s.sp := rfl
@[simp] theorem State.setOut_dt (o : StepOut) : (s.setOut o).dt = s.dt := rfl
@[simp] theorem State.setOut_st (o : StepOut) : (s.setOut o).st = s.st := rfl
@[simp] theorem State.setOut_key (o : StepOut) : (s.setOut o).key = s.key := rfl
@[simp] theorem State.setOut_disp (o : StepOut) : (s.setOut o).disp = s.disp := rfl
@[simp] theorem State.setOut_rs (o : StepOut) : (s.setOut o).rs = s.rs := rfl
@[simp] theorem State.setOut_redraw (o : StepOut) : (s.setOut o).redraw = s.redraw := rfl
@[simp] theorem State.setOut_sndStart (o : StepOut) : (s.setOut o).sndStart = s.sndStart := rfl
@[simp] theorem State.setOut_tone (o : StepOut) : (s.setOut o).tone = s.tone := rfl
@[simp] theorem State.setOut_acc (o : StepOut) : (s.setOut o).acc = s.acc := rfl
@[simp] theorem State.setOut_faultPc (o : StepOut) : (s.setOut o).faultPc = s.faultPc := rfl
@[simp] theorem State.setOut_draws (o : StepOut) : (s.setOut o).draws = s.draws := rfl
@[simp] theorem State.setOut_out (o : StepOut) : (s.setOut o).out = o := rfl
@[simp] theorem State.setOut_readMem (o : StepOut) (a' : Addr) : (s.setOut o).readMem a' = s.readMem a' := rfl
@[simp] theorem State.setOut_getV (o : StepOut) (x' : Nibble) : (s.setOut o).getV x' = s.getV x' := rfl
@[simp] theorem State.setOut_getKey (o : StepOut) (k' : Nibble) : (s.setOut o).getKey k' = s.getKey k' := rfl
@[simp] theorem State.setOut_pcPlus (o : StepOut) (w : Word) : (s.setOut o).pcPlus w = s.pcPlus w := rfl
@[simp] theorem State.setOut_addrI (o : StepOut) (k' : Nat) : (s.setOut o).addrI k' = s.addrI k' := rfl
@[simp] theorem State.setOut_readAtI (o : StepOut) (k' : Nat) : (s.setOut o).readAtI k' = s.readAtI k' := rfl
@[simp] theorem State.setOut_fetchWord (o : StepOut) : (s.setOut o).fetchWord = s.fetchWord := rfl

/-! ### `countDraw` -/

@[simp] theorem State.countDraw_cfg : (s.countDraw).cfg = s.cfg := rfl
@[simp] theorem State.countDraw_mem : (s.countDraw).mem = s.mem := rfl
@[simp] theorem State.countDraw_v : (s.countDraw).v = s.v := rfl
@[simp] theorem State.countDraw_i : (s.countDraw).i = s.i := rfl
@[simp] theorem State.countDraw_pc : (s.countDraw).pc = s.pc := rfl
@[simp] theorem State.countDraw_stack : (s.countDraw).stack = s.stack := rfl
@[simp] theorem State.countDraw_sp : (s.countDraw).sp = s.sp := rfl
@[simp] theorem State.countDraw_dt : (s.countDraw).dt = s.dt := rfl
@[simp] theorem State.countDraw_st : (s.countDraw).st = s.st := rfl
@[simp] theorem State.countDraw_key : (s.countDraw).key = s.key := rfl
@[simp] theorem State.countDraw_disp : (s.countDraw).disp = s.disp := rfl
@[simp] theorem State.countDraw_rs : (s.countDraw).rs = s.rs := rfl
@[simp] theorem State.countDraw_redraw : (s.countDraw).redraw = s.redraw := rfl
@[simp] theorem State.countDraw_sndStart : (s.countDraw).sndStart = s.sndStart := rfl
@[simp] theorem State.countDraw_tone : (s.countDraw).tone = s.tone := rfl
@[simp] theorem State.countDraw_acc : (s.countDraw).acc = s.acc := rfl
@[simp] theorem State.countDraw_faultPc : (s.countDraw).faultPc = s.faultPc := rfl
@[simp] theorem State.countDraw_draws : (s.countDraw).draws = s.draws + 1 := rfl
@[simp] theorem State.countDraw_out : (s.countDraw).out = s.out := rfl
@[simp] theorem State.countDraw_readMem (a' : Addr) : (s.countDraw).readMem a' = s.readMem a' := rfl
@[simp] theorem State.countDraw_getV (x' : Nibble) : (s.countDraw).getV x' = s.getV x' := rfl
@[simp] theorem State.countDraw_getKey (k' : Nibble) : (s.countDraw).getKey k' = s.getKey k' := rfl
@[simp] theorem State.countDraw_pcPlus (w : Word) : (s.countDraw).pcPlus w = s.pcPlus w := rfl
@[simp] theorem State.countDraw_addrI (k' : Nat) : (s.countDraw).addrI k' = s.addrI k' := rfl
@[simp] theorem State.countDraw_readAtI (k' : Nat) : (s.countDraw).readAtI k' = s.readAtI k' := rfl
@[simp] theorem State.countDraw_fetchWord : (s.countDraw).fetchWord = s.fetchWord := rfl

/-! ### `advance` -/

@[simp] theorem State.advance_cfg : (s.advance).cfg = s.cfg := rfl
@[simp] theorem State.advance_mem : (s.advance).mem = s.mem := rfl
@[simp] theorem State.advance_v : (s.advance).v = s.v := rfl
@[simp] theorem State.advance_i : (s.advance).i = s.i := rfl
@[simp] theorem State.advance_pc : (s.advance).pc = (s.pcPlus 2).setWidth 16 := rfl
@[simp] theorem State.advance_stack : (s.advance).stack = s.stack := rfl
@[simp] theorem State.advance_sp : (s.advance).sp = s.sp := rfl
@[simp] theorem State.advance_dt : (s.advance).dt = s.dt := rfl
@[simp] theorem State.advance_st : (s.advance).st = s.st := rfl
@[simp] theorem State.advance_key : (s.advance).key = s.key := rfl
@[simp] theorem State.advance_disp : (s.advance).disp = s.disp := rfl
@[simp] theorem State.advance_rs : (s.advance).rs = s.rs := rfl
@[simp] theorem State.advance_redraw : (s.advance).redraw = s.redraw := rfl
@[simp] theorem State.advance_sndStart : (s.advance).sndStart = s.sndStart := rfl
@[simp] theorem State.advance_tone : (s.advance).tone = s.tone := rfl
@[simp] theorem State.advance_acc : (s.advance).acc = s.acc := rfl
@[simp] theorem State.advance_faultPc : (s.advance).faultPc = s.faultPc := rfl
@[simp] theorem State.advance_draws : (s.advance).draws = s.draws := rfl
@[simp] theorem State.advance_out : (s.advance).out = s.out := rfl
@[simp] theorem State.advance_readMem (a' : Addr) : (s.advance).readMem a' = s.readMem a' := rfl
@[simp] theorem State.advance_getV (x' : Nibble) : (s.advance).getV x' = s.getV x' := rfl
@[simp] theorem State.advance_getKey (k' : Nibble) : (s.advance).getKey k' = s.getKey k' := rfl
@[simp] theorem State.advance_addrI (k' : Nat) : (s.advance).addrI k' = s.addrI k' := rfl
@[simp] theorem State.advance_readAtI (k' : Nat) : (s.advance).readAtI k' = s.readAtI k' := rfl

/-! ### `skipIf` -/

@[simp] theorem State.skipIf_cfg (c : Bool) : (s.skipIf c).cfg = s.cfg := rfl
@[simp] theorem State.skipIf_mem (c : Bool) : (s.skipIf c).mem = s.mem := rfl
@[simp] theorem State.skipIf_v (c : Bool) : (s.skipIf c).v = s.v := rfl
@[simp] theorem State.skipIf_i (c : Bool) : (s.skipIf c).i = s.i := rfl
@[simp] theorem State.skipIf_pc (c : Bool) : (s.skipIf c).pc = (if c then s.pcPlus 4 else s.pcPlus 2).setWidth 16 := rfl
@[simp] theorem State.skipIf_stack (c : Bool) : (s.skipIf c).stack = s.stack := rfl
@[simp] theorem State.skipIf_sp (c : Bool) : (s.skipIf c).sp = s.sp := rfl
@[simp] theorem State.skipIf_dt (c : Bool) : (s.skipIf c).dt = s.dt := rfl
@[simp] theorem State.skipIf_st (c : Bool) : (s.skipIf c).st = s.st := rfl
@[simp] theorem State.skipIf_key (c : Bool) : (s.skipIf c).key = s.key := rfl
@[simp] theorem State.skipIf_disp (c : Bool) : (s.skipIf c).disp = s.disp := rfl
@[simp] theorem State.skipIf_rs (c : Bool) : (s.skipIf c).rs = s.rs := rfl
@[simp] theorem State.skipIf_redraw (c : Bool) : (s.skipIf c).redraw = s.redraw := rfl
@[simp] theorem State.skipIf_sndStart (c : Bool) : (s.skipIf c).sndStart = s.sndStart := rfl
@[simp] theorem State.skipIf_tone (c : Bool) : (s.skipIf c).tone = s.tone := rfl
@[simp] theorem State.skipIf_acc (c : Bool) : (s.skipIf c).acc = s.acc := rfl
@[simp] theorem State.skipIf_faultPc (c : Bool) : (s.skipIf c).faultPc = s.faultPc := rfl
@[simp] theorem State.skipIf_draws (c : Bool) : (s.skipIf c).draws = s.draws := rfl
@[simp] theorem State.skipIf_out (c : Bool) : (s.skipIf c).out = s.out := rfl
@[simp] theorem State.skipIf_readMem (c : Bool) (a' : Addr) : (s.skipIf c).readMem a' = s.readMem a' := rfl
@[simp] theorem State.skipIf_getV (c : Bool) (x' : Nibble) : (s.skipIf c).getV x' = s.getV x' := rfl
@[simp] theorem State.skipIf_getKey (c : Bool) (k' : Nibble) : (s.skipIf c).getKey k' = s.getKey k' := rfl
@[simp] theorem State.skipIf_addrI (c : Bool) (k' : Nat) : (s.skipIf c).addrI k' = s.addrI k' := rfl
@[simp] theorem State.skipIf_readAtI (c : Bool) (k' : Nat) : (s.skipIf c).readAtI k' = s.readAtI k' := rfl

end Sys2Proof.Machine
end

