-- ==== Sys2Proof/Laws/Memory.lean ====
section
/-! SUPPORT. The laws of memory: a read after a write, and the canonical form, which every memory operation keeps. -/

namespace Sys2Proof.Machine

/-! ### The list -/

theorem Memory.find_erase (m : Memory) (a a' : Nat) :
    Memory.find (Memory.erase m a) a' = if a = a' then none else Memory.find m a' := by
  induction m with
  | nil => simp [Memory.erase, Memory.find]
  | cons c m ih =>
    obtain ⟨k, b⟩ := c
    by_cases hk : k = a
    · subst hk
      by_cases h : k = a'
      · subst h; simpa [Memory.erase, Memory.find] using ih
      · simpa [Memory.erase, Memory.find, h] using ih
    · by_cases h : k = a'
      · subst h
        simp [Memory.erase, Memory.find, hk, Ne.symm hk]
      · simp [Memory.erase, Memory.find, hk, h, ih]

theorem Memory.find_insert (m : Memory) (a : Nat) (b : Byte) (a' : Nat) :
    Memory.find (Memory.insert m a b) a' = if a = a' then some b else Memory.find m a' := by
  induction m with
  | nil => simp [Memory.insert, Memory.find]
  | cons c m ih =>
    obtain ⟨k, d⟩ := c
    unfold Memory.insert
    split
    · simp [Memory.find]
    · split
      · rename_i h
        subst h
        by_cases h : k = a' <;> simp [Memory.find, h]
      · rename_i hk
        by_cases h : k = a'
        · subst h
          simp [Memory.find, Ne.symm hk]
        · simp [Memory.find, h, ih]

/-- A read after a write: the byte written at its own address, the old byte at every other. -/
theorem Memory.read_write (cfg : Config) (m : Memory) (a a' : Addr) (b : Byte) :
    Memory.read cfg (Memory.write cfg m a b) a' = if a = a' then b else Memory.read cfg m a' := by
  unfold Memory.read Memory.write
  split
  · rename_i hb
    rw [Memory.find_erase]
    by_cases h : a = a'
    · subst h; simp [hb]
    · simp [h, BitVec.toNat_inj]
  · rw [Memory.find_insert]
    by_cases h : a = a'
    · subst h; simp
    · simp [h, BitVec.toNat_inj]

/-- The same over the state: everything `MemWrite` does to `MemRead`. -/
theorem State.readMem_writeMem (s : State) (a a' : Addr) (b : Byte) :
    (s.writeMem a b).readMem a' = if a = a' then b else s.readMem a' :=
  Memory.read_write s.cfg s.mem a a' b

@[simp] theorem State.readMem_writeMem_same (s : State) (a : Addr) (b : Byte) :
    (s.writeMem a b).readMem a = b := by
  rw [State.readMem_writeMem, if_pos rfl]

/-! ### The canonical form -/

theorem Memory.risesFrom_mono {lo lo' : Nat} (h : lo' ≤ lo) :
    ∀ {m : Memory}, Memory.risesFrom lo m = true → Memory.risesFrom lo' m = true
  | [], _ => rfl
  | (k, _) :: m, hm => by
    simp only [Memory.risesFrom, Bool.and_eq_true, decide_eq_true_eq] at hm ⊢
    exact ⟨h.trans hm.1, hm.2⟩

theorem Memory.risesFrom_erase (a : Nat) :
    ∀ {m : Memory} {lo : Nat}, Memory.risesFrom lo m = true → Memory.risesFrom lo (Memory.erase m a) = true
  | [], _, _ => rfl
  | (k, _) :: m, lo, h => by
    simp only [Memory.risesFrom, Bool.and_eq_true, decide_eq_true_eq] at h
    unfold Memory.erase
    split
    · exact Memory.risesFrom_erase a (Memory.risesFrom_mono (by omega) h.2)
    · simp only [Memory.risesFrom, Bool.and_eq_true, decide_eq_true_eq]
      exact ⟨h.1, Memory.risesFrom_erase a h.2⟩

theorem Memory.risesFrom_insert (a : Nat) (b : Byte) :
    ∀ {m : Memory} {lo : Nat}, lo ≤ a → Memory.risesFrom lo m = true →
      Memory.risesFrom lo (Memory.insert m a b) = true
  | [], _, ha, _ => by simp [Memory.insert, Memory.risesFrom, ha]
  | (k, _) :: m, lo, ha, h => by
    simp only [Memory.risesFrom, Bool.and_eq_true, decide_eq_true_eq] at h
    unfold Memory.insert
    split
    · simp only [Memory.risesFrom, Bool.and_eq_true, decide_eq_true_eq]
      exact ⟨ha, by omega, h.2⟩
    · split
      · rename_i hk
        subst hk
        simp only [Memory.risesFrom, Bool.and_eq_true, decide_eq_true_eq]
        exact ⟨ha, h.2⟩
      · simp only [Memory.risesFrom, Bool.and_eq_true, decide_eq_true_eq]
        exact ⟨h.1, Memory.risesFrom_insert a b (by omega) h.2⟩

theorem Memory.all_erase (p : Host.Cell → Bool) (a : Nat) :
    ∀ {m : Memory}, m.all p = true → (Memory.erase m a).all p = true
  | [], _ => rfl
  | (k, _) :: m, h => by
    rw [List.all_cons, Bool.and_eq_true] at h
    unfold Memory.erase
    split
    · exact Memory.all_erase p a h.2
    · rw [List.all_cons, Bool.and_eq_true]
      exact ⟨h.1, Memory.all_erase p a h.2⟩

theorem Memory.all_insert (p : Host.Cell → Bool) (a : Nat) (b : Byte) (hp : p (a, b) = true) :
    ∀ {m : Memory}, m.all p = true → (Memory.insert m a b).all p = true
  | [], _ => by simp [Memory.insert, hp]
  | (k, _) :: m, h => by
    rw [List.all_cons, Bool.and_eq_true] at h
    unfold Memory.insert
    split
    · simp [hp, h.1, h.2]
    · split
      · simp [hp, h.2]
      · rw [List.all_cons, Bool.and_eq_true]
        exact ⟨h.1, Memory.all_insert p a b hp h.2⟩

/-- A write keeps the canonical form. -/
theorem Memory.write_wf (cfg : Config) (m : Memory) (a : Addr) (b : Byte) (h : Memory.wf cfg m = true) :
    Memory.wf cfg (Memory.write cfg m a b) = true := by
  unfold Memory.wf at h ⊢
  rw [Bool.and_eq_true] at h ⊢
  unfold Memory.write
  split
  · exact ⟨Memory.risesFrom_erase _ h.1, Memory.all_erase _ _ h.2⟩
  · rename_i hb
    exact ⟨Memory.risesFrom_insert _ _ (Nat.zero_le _) h.1,
      Memory.all_insert _ _ _ (by simp [hb, a.isLt]) h.2⟩

/-- `MemWrite` keeps the canonical form. -/
theorem State.writeMem_wf (s : State) (a : Addr) (b : Byte) (h : Memory.wf s.cfg s.mem = true) :
    Memory.wf (s.writeMem a b).cfg (s.writeMem a b).mem = true :=
  Memory.write_wf s.cfg s.mem a b h

/-- Reset's memory is canonical. -/
theorem State.resetWith_wf (cfg : Config) :
    Memory.wf (State.resetWith cfg).cfg (State.resetWith cfg).mem = true := rfl

/-! ### Equal memories are equal data -/

theorem Memory.find_eq_none_of_lt {lo a : Nat} (h : a < lo) :
    ∀ {m : Memory}, Memory.risesFrom lo m = true → Memory.find m a = none
  | [], _ => rfl
  | (k, _) :: m, hm => by
    simp only [Memory.risesFrom, Bool.and_eq_true, decide_eq_true_eq] at hm
    unfold Memory.find
    rw [if_neg (by omega)]
    exact Memory.find_eq_none_of_lt (by omega) hm.2

/-- Two rising lists that find the same bytes are the same list. -/
theorem Memory.ext_find :
    ∀ {m m' : Memory} {lo lo' : Nat}, Memory.risesFrom lo m = true → Memory.risesFrom lo' m' = true →
      (∀ a, Memory.find m a = Memory.find m' a) → m = m'
  | [], [], _, _, _, _, _ => rfl
  | [], (k, b) :: m', _, _, _, _, h => by simpa [Memory.find] using h k
  | (k, b) :: m, [], _, _, _, _, h => by simpa [Memory.find] using h k
  | (k, b) :: m, (k', b') :: m', lo, lo', hm, hm', h => by
    simp only [Memory.risesFrom, Bool.and_eq_true, decide_eq_true_eq] at hm hm'
    have hk : k = k' := by
      by_contra hne
      rcases Nat.lt_or_gt_of_ne hne with hlt | hgt
      · have := h k
        rw [Memory.find, if_pos rfl, Memory.find, if_neg (Ne.symm hne),
          Memory.find_eq_none_of_lt (by omega) hm'.2] at this
        cases this
      · have := h k'
        rw [Memory.find, if_neg hne, Memory.find_eq_none_of_lt (by omega) hm.2, Memory.find, if_pos rfl] at this
        cases this
    subst hk
    have hb : b = b' := by simpa [Memory.find] using h k
    subst hb
    have := Memory.ext_find hm.2 hm'.2 fun a => by
      by_cases ha : k = a
      · subst ha
        rw [Memory.find_eq_none_of_lt (by omega) hm.2, Memory.find_eq_none_of_lt (by omega) hm'.2]
      · simpa [Memory.find, ha] using h a
    rw [this]

/-- In a canonical memory an address is listed exactly when it reads otherwise than unlisted. -/
theorem Memory.find_of_all {cfg : Config} :
    ∀ {m : Memory}, m.all (fun c => decide (c.1 < 4096) && decide (c.2 ≠ unlistedByte cfg c.1)) = true →
      ∀ {a : Nat} {b : Byte}, Memory.find m a = some b → a < 4096 ∧ b ≠ unlistedByte cfg a
  | (k, c) :: m, h, a, b, hf => by
    rw [List.all_cons, Bool.and_eq_true] at h
    unfold Memory.find at hf
    split at hf
    · rename_i hk
      subst hk
      cases hf
      simpa using h.1
    · exact Memory.find_of_all h.2 hf

/-- Two canonical memories that read alike at every address are the same list. -/
theorem Memory.ext_read {cfg : Config} {m m' : Memory} (hm : Memory.wf cfg m = true) (hm' : Memory.wf cfg m' = true)
    (h : ∀ a : Addr, Memory.read cfg m a = Memory.read cfg m' a) : m = m' := by
  rw [Memory.wf, Bool.and_eq_true] at hm hm'
  refine Memory.ext_find hm.1 hm'.1 fun a => ?_
  by_cases ha : a < 4096
  · have hr := h (BitVec.ofNat 12 a)
    have hn : (BitVec.ofNat 12 a).toNat = a := by simp; omega
    simp only [Memory.read, hn] at hr
    cases hf : Memory.find m a with
    | none =>
      cases hf' : Memory.find m' a with
      | none => rfl
      | some b' =>
        rw [hf, hf'] at hr
        exact absurd hr.symm (Memory.find_of_all hm'.2 hf').2
    | some b =>
      cases hf' : Memory.find m' a with
      | none =>
        rw [hf, hf'] at hr
        exact absurd hr (Memory.find_of_all hm.2 hf).2
      | some b' =>
        rw [hf, hf'] at hr
        simpa using hr
  · have none_of : ∀ {n : Memory},
        n.all (fun c => decide (c.1 < 4096) && decide (c.2 ≠ unlistedByte cfg c.1)) = true → Memory.find n a = none := by
      intro n hn
      cases hf : Memory.find n a with
      | none => rfl
      | some b => exact absurd (Memory.find_of_all hn hf).1 ha
    rw [none_of hm.2, none_of hm'.2]

end Sys2Proof.Machine
end

