-- ==== Sys2Proof/Laws/Ops.lean ====
section
/-! SUPPORT. One law per shared operation: what it reads and everything it can do. -/

namespace Sys2Proof.Machine

/-! ### Addresses in unbounded arithmetic -/

@[simp] theorem mask12_toNat (v : Word) : (mask12 v).toNat = v.toNat % 4096 := by
  simp [mask12, BitVec.toNat_setWidth]

@[simp] theorem zext16_toNat (b : Byte) : (zext16 b).toNat = b.toNat := by
  have := b.isLt
  rw [zext16, BitVec.toNat_setWidth]
  omega

/-- A 12-bit value written to `PC` or `I` is that value. -/
@[simp] theorem addr_setWidth_toNat (a : Addr) : (a.setWidth 16 : Word).toNat = a.toNat := by
  have := a.isLt
  rw [BitVec.toNat_setWidth]
  omega

theorem addr_setWidth_lt (a : Addr) : (a.setWidth 16 : Word).toNat < 4096 := by
  rw [addr_setWidth_toNat]
  exact a.isLt

theorem State.pcPlus_toNat (s : State) (k : Word) : (s.pcPlus k).toNat = (s.pc.toNat + k.toNat) % 4096 := by
  rw [State.pcPlus, mask12_toNat, BitVec.toNat_add]
  omega

theorem State.setPc_pc_toNat (s : State) (a : Addr) : (s.setPc a).pc.toNat = a.toNat := addr_setWidth_toNat a

theorem State.setI_i_toNat (s : State) (a : Addr) : (s.setI a).i.toNat = a.toNat := addr_setWidth_toNat a

/-- `PC <- mask12(PC + 2)`. -/
theorem State.advance_pcMoves (s : State) : PcMoves 2 s s.advance := by
  rw [PcMoves, State.advance, State.setPc_pc_toNat, State.pcPlus_toNat]
  rfl

theorem State.skipIf_pc_toNat (s : State) (c : Bool) : (s.skipIf c).pc.toNat = skipTarget s c := by
  rw [State.skipIf, State.setPc_pc_toNat, skipTarget]
  cases c <;> simp [State.pcPlus_toNat]

/-- `mask12(I + k)`. -/
theorem State.addrI_toNat (s : State) (k : Nat) : (s.addrI k).toNat = (s.i.toNat + k) % 4096 := by
  rw [State.addrI, mask12_toNat, BitVec.toNat_add, BitVec.toNat_ofNat]
  omega

theorem State.addrI_inj (s : State) {j k : Nat} (hj : j < 4096) (hk : k < 4096) (h : s.addrI j = s.addrI k) :
    j = k := by
  have := congrArg BitVec.toNat h
  rw [State.addrI_toNat, State.addrI_toNat] at this
  omega

theorem State.glyphAddr_toNat (s : State) (b : Byte) :
    (s.glyphAddr b).toNat = (s.cfg.fontBase.toNat + b.toNat * 5) % 4096 := by
  have h1 := s.cfg.fontBase.isLt
  have h2 := b.isLt
  rw [State.glyphAddr, mask12_toNat, BitVec.toNat_add, BitVec.toNat_mul, zext16_toNat, addr_setWidth_toNat]
  simp

/-! ### Registers and keys -/

theorem State.getV_setV (s : State) (x k : Nibble) (b : Byte) :
    (s.setV x b).getV k = if x = k then b else s.getV k := by
  simp [State.getV, State.setV, Vector.getElem_set, BitVec.toNat_inj]

@[simp] theorem State.getV_setV_same (s : State) (x : Nibble) (b : Byte) : (s.setV x b).getV x = b := by
  rw [State.getV_setV, if_pos rfl]

theorem State.getV_setV_other (s : State) {x k : Nibble} (b : Byte) (h : x ≠ k) :
    (s.setV x b).getV k = s.getV k := by
  rw [State.getV_setV, if_neg h]

theorem State.getKey_setKey (s : State) (k j : Nibble) (p : Bool) :
    (s.setKey k p).getKey j = if k = j then p else s.getKey j := by
  simp [State.getKey, State.setKey, Vector.getElem_set, BitVec.toNat_inj]

/-- The flag is what VF holds at the end, whatever X is (R244). -/
@[simp] theorem State.setResultFlag_flag (s : State) (x : Nibble) (r f : Byte) :
    (s.setResultFlag x r f).getV flagReg = f := by
  rw [State.setResultFlag, State.getV_setV_same]

theorem State.setResultFlag_result (s : State) {x : Nibble} (r f : Byte) (h : x ≠ flagReg) :
    (s.setResultFlag x r f).getV x = r := by
  rw [State.setResultFlag, State.getV_setV_other _ _ (Ne.symm h), State.getV_setV_same]

theorem State.setResultFlag_other (s : State) {x k : Nibble} (r f : Byte) (hx : k ≠ x) (hf : k ≠ flagReg) :
    (s.setResultFlag x r f).getV k = s.getV k := by
  rw [State.setResultFlag, State.getV_setV_other _ _ (Ne.symm hf), State.getV_setV_other _ _ (Ne.symm hx)]

/-! ### Stack conditions, calls and returns -/

theorem State.stackCondition_fatal (s : State) (c : Cause) (h : s.cfg.stackPolicy = .fatal) :
    s.stackCondition c = s.fatal c := by
  simp [State.stackCondition, h]

theorem State.stackCondition_saturate (s : State) (c : Cause) (h : s.cfg.stackPolicy = .saturate) :
    s.stackCondition c = s.saturate c := by
  simp [State.stackCondition, h]

theorem State.callTo_of_full (s : State) (a : Addr) (h : s.sp.val = 16) :
    s.callTo a = s.stackCondition .stackOverflow := by
  simp [State.callTo, h]

/-- Everything a call does when the stack is not full. -/
theorem State.callTo_of_lt (s : State) (a : Addr) (h : s.sp.val < 16) :
    s.callTo a = { s with
      stack := s.stack.set s.sp.val ((s.pcPlus 2).setWidth 16) h
      sp := ⟨s.sp.val + 1, Nat.succ_lt_succ h⟩
      pc := a.setWidth 16 } := by
  simp [State.callTo, h, State.setPc]

theorem State.returnFromCall_of_empty (s : State) (h : s.sp.val = 0) :
    s.returnFromCall = s.stackCondition .stackUnderflow := by
  simp [State.returnFromCall, h]

/-- Everything a return does when the stack is not empty. -/
theorem State.returnFromCall_of_pos (s : State) (h : 0 < s.sp.val) :
    s.returnFromCall = { s with
      sp := ⟨s.sp.val - 1, Nat.lt_of_le_of_lt (Nat.sub_le _ _) s.sp.isLt⟩
      pc := (mask12 (s.stack[s.sp.val - 1]'(by have := s.sp.isLt; omega))).setWidth 16 } := by
  simp [State.returnFromCall, h, State.setPc]

/-! ### Memory transfers -/

/-- The first `n` byte writes of FX55. -/
theorem State.storeFold_eq (s : State) (n : Nat) :
    ∃ m : Memory, (List.range n).foldl (fun t k => t.writeAtI k (t.getV (BitVec.ofNat 4 k))) s = { s with mem := m } := by
  induction n with
  | zero => exact ⟨s.mem, rfl⟩
  | succ n ih =>
    obtain ⟨m, hm⟩ := ih
    rw [List.range_succ, List.foldl_append, hm]
    exact ⟨_, rfl⟩

theorem State.storeFold_readMem (s : State) (n : Nat) (hn : n ≤ 16) (a : Addr) :
    (∀ k, k < n → s.addrI k = a →
      ((List.range n).foldl (fun t k => t.writeAtI k (t.getV (BitVec.ofNat 4 k))) s).readMem a
        = s.getV (BitVec.ofNat 4 k)) ∧
    ((∀ k, k < n → s.addrI k ≠ a) →
      ((List.range n).foldl (fun t k => t.writeAtI k (t.getV (BitVec.ofNat 4 k))) s).readMem a = s.readMem a) := by
  induction n with
  | zero => exact ⟨fun k hk => absurd hk (Nat.not_lt_zero k), fun _ => rfl⟩
  | succ n ih =>
    obtain ⟨ih1, ih2⟩ := ih (by omega)
    obtain ⟨m, hm⟩ := State.storeFold_eq s n
    rw [List.range_succ, List.foldl_append]
    rw [hm] at ih1 ih2 ⊢
    simp only [List.foldl_cons, List.foldl_nil, State.writeAtI]
    rw [State.readMem_writeMem]
    refine ⟨fun k hk ha => ?_, fun h => ?_⟩
    · split
      · rename_i hn'
        have : k = n := State.addrI_inj s (by omega) (by omega) (ha.trans hn'.symm)
        subst this
        rfl
      · rename_i hn'
        refine ih1 k ?_ ha
        by_contra hge
        have : k = n := by omega
        subst this
        exact hn' ha
    · refine (if_neg (h n (Nat.lt_succ_self n))).trans ?_
      exact ih2 fun k hk => h k (Nat.lt_succ_of_lt hk)

/-- FX55 changes memory alone. -/
theorem State.storeRegs_eq (s : State) (x : Nibble) : ∃ m : Memory, s.storeRegs x = { s with mem := m } :=
  State.storeFold_eq s _

/-- FX55 stores `V[k]` at `mask12(I + k)` for each k up to x. -/
theorem State.storeRegs_at (s : State) (x : Nibble) {k : Nat} (hk : k ≤ x.toNat) :
    (s.storeRegs x).readMem (s.addrI k) = s.getV (BitVec.ofNat 4 k) :=
  (State.storeFold_readMem s _ x.isLt _).1 k (Nat.lt_succ_of_le hk) rfl

/-- FX55 leaves every other byte. -/
theorem State.storeRegs_other (s : State) (x : Nibble) {a : Addr} (h : ∀ k, k ≤ x.toNat → s.addrI k ≠ a) :
    (s.storeRegs x).readMem a = s.readMem a :=
  (State.storeFold_readMem s _ x.isLt _).2 fun k hk => h k (Nat.le_of_lt_succ hk)

theorem State.loadFold_eq (s : State) (n : Nat) :
    ∃ v : Vector Byte 16,
      (List.range n).foldl (fun t k => t.setV (BitVec.ofNat 4 k) (t.readAtI k)) s = { s with v := v } := by
  induction n with
  | zero => exact ⟨s.v, rfl⟩
  | succ n ih =>
    obtain ⟨v, hv⟩ := ih
    rw [List.range_succ, List.foldl_append, hv]
    exact ⟨_, rfl⟩

theorem State.loadFold_getV (s : State) (n : Nat) (hn : n ≤ 16) (j : Nibble) :
    ((List.range n).foldl (fun t k => t.setV (BitVec.ofNat 4 k) (t.readAtI k)) s).getV j
      = if j.toNat < n then s.readAtI j.toNat else s.getV j := by
  induction n with
  | zero => rfl
  | succ n ih =>
    obtain ⟨v, hv⟩ := State.loadFold_eq s n
    have ih := ih (by omega)
    rw [List.range_succ, List.foldl_append]
    rw [hv] at ih ⊢
    simp only [List.foldl_cons, List.foldl_nil]
    rw [State.getV_setV, ih]
    have hj := j.isLt
    have hofNat : (BitVec.ofNat 4 n).toNat = n := by rw [BitVec.toNat_ofNat]; omega
    by_cases h : BitVec.ofNat 4 n = j
    · have hjn : j.toNat = n := by rw [← h, hofNat]
      rw [if_pos h, if_pos (by omega), hjn]
      rfl
    · have hjn : j.toNat ≠ n := fun e => h (BitVec.eq_of_toNat_eq (by rw [hofNat, e]))
      rw [if_neg h]
      by_cases hlt : j.toNat < n
      · rw [if_pos hlt, if_pos (by omega)]
      · rw [if_neg hlt, if_neg (by omega)]

/-- FX65 changes registers alone. -/
theorem State.loadRegs_eq (s : State) (x : Nibble) : ∃ v : Vector Byte 16, s.loadRegs x = { s with v := v } :=
  State.loadFold_eq s _

/-- FX65 loads `V[0]` to `V[x]` and leaves every other register. -/
theorem State.loadRegs_getV (s : State) (x j : Nibble) :
    (s.loadRegs x).getV j = if j.toNat ≤ x.toNat then s.readAtI j.toNat else s.getV j := by
  rw [State.loadRegs, State.loadFold_getV s _ x.isLt]
  simp only [Nat.lt_succ_iff]

/-- FX33 changes memory alone. -/
theorem State.storeBcd_eq (s : State) (b : Byte) : ∃ m : Memory, s.storeBcd b = { s with mem := m } := ⟨_, rfl⟩

/-- Everything FX33 does to memory. -/
theorem State.storeBcd_readMem (s : State) (b : Byte) (a : Addr) :
    (s.storeBcd b).readMem a =
      if s.addrI 2 = a then bcdOnes b else if s.addrI 1 = a then bcdTens b
      else if s.addrI 0 = a then bcdHundreds b else s.readMem a := by
  rw [State.storeBcd, State.writeAtI, State.readMem_writeMem, State.writeAtI, State.readMem_writeMem, State.writeAtI,
    State.readMem_writeMem]
  rfl

/-! ### The canonical form under the memory transfers -/

theorem State.storeRegs_wf (s : State) (x : Nibble) (h : Memory.wf s.cfg s.mem = true) :
    Memory.wf s.cfg (s.storeRegs x).mem = true := by
  have key : ∀ n, Memory.wf s.cfg
      ((List.range n).foldl (fun t k => t.writeAtI k (t.getV (BitVec.ofNat 4 k))) s).mem = true := by
    intro n
    induction n with
    | zero => exact h
    | succ n ih =>
      obtain ⟨m, hm⟩ := State.storeFold_eq s n
      rw [List.range_succ, List.foldl_append]
      rw [hm] at ih ⊢
      exact Memory.write_wf _ _ _ _ ih
  exact key _

theorem State.storeBcd_wf (s : State) (b : Byte) (h : Memory.wf s.cfg s.mem = true) :
    Memory.wf s.cfg (s.storeBcd b).mem = true :=
  Memory.write_wf _ _ _ _ (Memory.write_wf _ _ _ _ (Memory.write_wf _ _ _ _ h))

end Sys2Proof.Machine
end

