-- ==== Sys2Proof/Laws/Draw.lean ====
section
/-! SUPPORT. The laws of the display: one pixel after one write, and a whole sprite as the list of the pixels its 1 bits
fall on, visited once each (spec/44_display.md rules R322 and R323). -/

namespace Sys2Proof.Machine

theorem Display.pixel_blank (idx : Fin 2048) : Display.pixel Display.blank idx = false := by
  simp [Display.pixel, Display.blank]

theorem Display.pixel_setPixel (d : Display) (idx jdx : Fin 2048) (p : Bool) :
    Display.pixel (Display.setPixel d idx p) jdx = if idx = jdx then p else Display.pixel d jdx := by
  unfold Display.pixel Display.setPixel
  rw [Vector.getElem_set]
  have hi := idx.isLt
  have hj := jdx.isLt
  have hlt : jdx.val % 64 < 64 := Nat.mod_lt _ (by decide)
  by_cases hrow : idx.val / 64 = jdx.val / 64
  · rw [if_pos hrow]
    by_cases hcol : idx.val % 64 = jdx.val % 64
    · have heq : idx = jdx := Fin.ext (by omega)
      subst heq
      cases p <;> simp [hlt]
    · have hne : idx ≠ jdx := fun h => hcol (by rw [h])
      cases p <;> simp [hne, hrow, hlt, Ne.symm hcol]
  · have hne : idx ≠ jdx := fun h => hrow (by rw [h])
    rw [if_neg hrow, if_neg hne]

/-- One 1 bit of a sprite flips its pixel, and is a collision when the pixel was lit (R323). -/
theorem drawPixel_pixel (c : Canvas) (idx jdx : Fin 2048) :
    Display.pixel (drawPixel c idx).disp jdx = (Display.pixel c.disp jdx ^^ decide (idx = jdx)) := by
  unfold drawPixel
  split <;> rename_i h <;> rw [Display.pixel_setPixel] <;> by_cases hj : idx = jdx
  · subst hj; simp [h]
  · simp [hj]
  · subst hj; simp [h]
  · simp [hj]

theorem drawPixel_hit (c : Canvas) (idx : Fin 2048) :
    (drawPixel c idx).hit = (c.hit || Display.pixel c.disp idx) := by
  unfold drawPixel
  split <;> rename_i h <;> simp [h]

/-- Drawing a list of pixels without repeats flips exactly those pixels. -/
theorem drawPixels_pixel (l : List (Fin 2048)) (hl : l.Nodup) (c : Canvas) (jdx : Fin 2048) :
    Display.pixel (l.foldl drawPixel c).disp jdx = (Display.pixel c.disp jdx ^^ decide (jdx ∈ l)) := by
  induction l generalizing c with
  | nil => simp
  | cons a l ih =>
    rw [List.nodup_cons] at hl
    rw [List.foldl_cons, ih hl.2, drawPixel_pixel]
    by_cases h : a = jdx
    · subst h
      simp [hl.1]
    · simp [h, Ne.symm h]

/-- The collision of such a draw: some pixel of the list was lit before. -/
theorem drawPixels_hit (l : List (Fin 2048)) (hl : l.Nodup) (c : Canvas) :
    (l.foldl drawPixel c).hit = (c.hit || l.any (Display.pixel c.disp)) := by
  induction l generalizing c with
  | nil => simp
  | cons a l ih =>
    rw [List.nodup_cons] at hl
    rw [List.foldl_cons, ih hl.2, drawPixel_hit, List.any_cons, Bool.or_assoc]
    congr 2
    have untouched : ∀ x ∈ l, Display.pixel (drawPixel c a).disp x = Display.pixel c.disp x := by
      intro x hx
      have hne : a ≠ x := fun e => hl.1 (e ▸ hx)
      rw [drawPixel_pixel, decide_eq_false hne, Bool.xor_false]
    rw [Bool.eq_iff_iff, List.any_eq_true, List.any_eq_true]
    exact exists_congr fun x => and_congr_right fun hx => by rw [untouched x hx]

/-- The pixels the 1 bits of a sprite fall on, in drawing order. -/
def State.spritePixels (s : State) (ox oy n : Nat) : List (Fin 2048) :=
  (List.range n).flatMap fun row =>
    ((List.range 8).filter (spriteBit (s.readAtI row))).map fun col => pixelIndex (ox + col) (oy + row)

/-- A draw is the draw of those pixels. -/
theorem State.drawSprite_eq (s : State) (ox oy n : Nat) :
    s.drawSprite ox oy n = (s.spritePixels ox oy n).foldl drawPixel ⟨s.disp, false⟩ := by
  rw [State.drawSprite, State.spritePixels, List.foldl_flatMap]
  congr 1
  funext c row
  rw [drawRow, List.foldl_map, List.foldl_filter]

theorem pixelIndex_inj {c c' r r' : Nat} (h : pixelIndex c r = pixelIndex c' r') :
    c % 64 = c' % 64 ∧ r % 32 = r' % 32 := by
  have := congrArg Fin.val h
  simp only [pixelIndex] at this
  omega

/-- One draw never visits a pixel twice: 8 columns < 64 and at most 32 rows (R322). -/
theorem State.spritePixels_nodup (s : State) (ox oy n : Nat) (hn : n ≤ 32) : (s.spritePixels ox oy n).Nodup := by
  rw [State.spritePixels, List.nodup_flatMap]
  refine ⟨fun row _ => ?_, ?_⟩
  · refine List.Nodup.map_on ?_ (List.Nodup.filter _ List.nodup_range)
    intro x hx y hy hxy
    have hx := List.mem_range.1 (List.mem_filter.1 hx).1
    have hy := List.mem_range.1 (List.mem_filter.1 hy).1
    have := pixelIndex_inj hxy
    omega
  · refine List.Pairwise.imp_of_mem ?_ (List.nodup_iff_pairwise_ne.1 (List.nodup_range (n := n)))
    intro a b ha hb hab
    rw [Function.onFun, List.disjoint_left]
    intro idx h1 h2
    obtain ⟨x, -, rfl⟩ := List.mem_map.1 h1
    obtain ⟨y, -, h⟩ := List.mem_map.1 h2
    have := pixelIndex_inj h
    have := List.mem_range.1 ha
    have := List.mem_range.1 hb
    omega

theorem spriteBit_eq_testBit (b : Byte) (col : Nat) : spriteBit b col = b.toNat.testBit (7 - col) := by
  simp [spriteBit, BitVec.getLsbD]

/-- The visited pixels are the covered ones. -/
theorem State.mem_spritePixels (s : State) {ox oy n c r : Nat} (hox : ox < 64) (hoy : oy < 32) (hn : n ≤ 32)
    (hc : c < 64) (hr : r < 32) :
    pixelIndex c r ∈ s.spritePixels ox oy n ↔ spriteCovers s ox oy n c r = true := by
  simp only [State.spritePixels, List.mem_flatMap, List.mem_map, List.mem_filter, List.mem_range, spriteCovers,
    Bool.and_eq_true, decide_eq_true_eq]
  constructor
  · rintro ⟨row, hrow, col, ⟨hcol, hbit⟩, h⟩
    have hi := pixelIndex_inj h
    have h1 : (r + 32 - oy) % 32 = row := by omega
    have h2 : (c + 64 - ox) % 64 = col := by omega
    rw [h1, h2]
    exact ⟨⟨hrow, hcol⟩, (spriteBit_eq_testBit _ _).symm.trans hbit⟩
  · rintro ⟨⟨hrow, hcol⟩, hbit⟩
    refine ⟨_, hrow, _, ⟨hcol, (spriteBit_eq_testBit _ _).trans hbit⟩, ?_⟩
    apply Fin.ext
    simp only [pixelIndex]
    have h1 : (ox + (c + 64 - ox) % 64) % 64 = c % 64 := by omega
    have h2 : (oy + (r + 32 - oy) % 32) % 32 = r % 32 := by omega
    rw [h1, h2]

/-- Every index is the index of a pixel. -/
theorem pixelIndex_surj (idx : Fin 2048) : pixelIndex (idx.val % 64) (idx.val / 64) = idx := by
  apply Fin.ext
  simp only [pixelIndex]
  omega

/-- What a draw does to each pixel: an exclusive or with the sprite (R323). -/
theorem State.drawSprite_pixel (s : State) {ox oy n c r : Nat} (hox : ox < 64) (hoy : oy < 32) (hn : n ≤ 32)
    (hc : c < 64) (hr : r < 32) :
    Display.pixel (s.drawSprite ox oy n).disp (pixelIndex c r)
      = (Display.pixel s.disp (pixelIndex c r) ^^ spriteCovers s ox oy n c r) := by
  rw [State.drawSprite_eq, drawPixels_pixel _ (s.spritePixels_nodup ox oy n hn)]
  congr 1
  rw [Bool.eq_iff_iff, decide_eq_true_eq]
  exact s.mem_spritePixels hox hoy hn hc hr

/-- The collision of a draw: a lit pixel under a 1 bit (R323). -/
theorem State.drawSprite_hit (s : State) {ox oy n : Nat} (hox : ox < 64) (hoy : oy < 32) (hn : n ≤ 32) :
    (s.drawSprite ox oy n).hit = true ↔
      ∃ c r : Nat, c < 64 ∧ r < 32 ∧ Display.pixel s.disp (pixelIndex c r) = true ∧
        spriteCovers s ox oy n c r = true := by
  rw [State.drawSprite_eq, drawPixels_hit _ (s.spritePixels_nodup ox oy n hn), Bool.false_or, List.any_eq_true]
  constructor
  · rintro ⟨idx, hmem, hlit⟩
    have hlt := idx.isLt
    refine ⟨idx.val % 64, idx.val / 64, Nat.mod_lt _ (by decide), by omega, ?_, ?_⟩
    · rw [pixelIndex_surj]; exact hlit
    · rw [← s.mem_spritePixels hox hoy hn (Nat.mod_lt _ (by decide)) (by omega), pixelIndex_surj]
      exact hmem
  · rintro ⟨c, r, hc, hr, hlit, hcov⟩
    exact ⟨_, (s.mem_spritePixels hox hoy hn hc hr).2 hcov, hlit⟩

end Sys2Proof.Machine
end

