-- ==== Sys2Proof/Laws/Encode.lean ====
section
/-! SUPPORT. The fields of the three word forms (spec/30_encoding.md rule R112), and each form under the masks of the
opcode map (rule R121). -/

namespace Sys2Proof

/-! ### Fields of a word, in unbounded arithmetic -/

theorem fieldGroup_toNat (w : Word) : (fieldGroup w).toNat = w.toNat / 4096 % 16 := by
  simp [fieldGroup, BitVec.extractLsb'_toNat, Nat.shiftRight_eq_div_pow]

theorem fieldX_toNat (w : Word) : (fieldX w).toNat = w.toNat / 256 % 16 := by
  simp [fieldX, BitVec.extractLsb'_toNat, Nat.shiftRight_eq_div_pow]

theorem fieldY_toNat (w : Word) : (fieldY w).toNat = w.toNat / 16 % 16 := by
  simp [fieldY, BitVec.extractLsb'_toNat, Nat.shiftRight_eq_div_pow]

theorem fieldN_toNat (w : Word) : (fieldN w).toNat = w.toNat % 16 := by
  simp [fieldN, BitVec.extractLsb'_toNat]

theorem fieldNN_toNat (w : Word) : (fieldNN w).toNat = w.toNat % 256 := by
  simp [fieldNN, BitVec.extractLsb'_toNat]

theorem fieldNNN_toNat (w : Word) : (fieldNNN w).toNat = w.toNat % 4096 := by
  simp [fieldNNN, BitVec.extractLsb'_toNat]

/-! ### The word forms, in unbounded arithmetic -/

theorem wordNNN_toNat (g : Nibble) (nnn : Addr) : (wordNNN g nnn).toNat = g.toNat * 4096 + nnn.toNat := by
  have h := nnn.isLt
  rw [wordNNN, BitVec.toNat_append, ← Nat.shiftLeft_add_eq_or_of_lt h, Nat.shiftLeft_eq]

theorem wordXNN_toNat (g x : Nibble) (nn : Byte) :
    (wordXNN g x nn).toNat = g.toNat * 4096 + x.toNat * 256 + nn.toNat := by
  have hx := x.isLt
  have h := nn.isLt
  have h2 : (x ++ nn).toNat = x.toNat * 256 + nn.toNat := by
    rw [BitVec.toNat_append, ← Nat.shiftLeft_add_eq_or_of_lt h, Nat.shiftLeft_eq]
  have h3 := (x ++ nn).isLt
  rw [wordXNN, BitVec.toNat_append, ← Nat.shiftLeft_add_eq_or_of_lt h3, Nat.shiftLeft_eq, h2]
  omega

theorem wordXYN_toNat (g x y n : Nibble) :
    (wordXYN g x y n).toNat = g.toNat * 4096 + x.toNat * 256 + y.toNat * 16 + n.toNat := by
  have hn := n.isLt
  have h1 : (y ++ n).toNat = y.toNat * 16 + n.toNat := by
    rw [BitVec.toNat_append, ← Nat.shiftLeft_add_eq_or_of_lt hn, Nat.shiftLeft_eq]
  have h2 : (x ++ (y ++ n)).toNat = x.toNat * 256 + (y ++ n).toNat := by
    rw [BitVec.toNat_append, ← Nat.shiftLeft_add_eq_or_of_lt (y ++ n).isLt, Nat.shiftLeft_eq]
  rw [wordXYN, BitVec.toNat_append, ← Nat.shiftLeft_add_eq_or_of_lt (x ++ (y ++ n)).isLt, Nat.shiftLeft_eq, h2, h1]
  omega

/-! ### The fields of the word forms -/

@[simp] theorem fieldGroup_wordNNN (g : Nibble) (nnn : Addr) : fieldGroup (wordNNN g nnn) = g := by
  have h1 := g.isLt; have h2 := nnn.isLt
  apply BitVec.eq_of_toNat_eq
  rw [fieldGroup_toNat, wordNNN_toNat]
  omega

@[simp] theorem fieldNNN_wordNNN (g : Nibble) (nnn : Addr) : fieldNNN (wordNNN g nnn) = nnn := by
  have h1 := g.isLt; have h2 := nnn.isLt
  apply BitVec.eq_of_toNat_eq
  rw [fieldNNN_toNat, wordNNN_toNat]
  omega

@[simp] theorem fieldGroup_wordXNN (g x : Nibble) (nn : Byte) : fieldGroup (wordXNN g x nn) = g := by
  have h1 := g.isLt; have h2 := x.isLt; have h3 := nn.isLt
  apply BitVec.eq_of_toNat_eq
  rw [fieldGroup_toNat, wordXNN_toNat]
  omega

@[simp] theorem fieldX_wordXNN (g x : Nibble) (nn : Byte) : fieldX (wordXNN g x nn) = x := by
  have h1 := g.isLt; have h2 := x.isLt; have h3 := nn.isLt
  apply BitVec.eq_of_toNat_eq
  rw [fieldX_toNat, wordXNN_toNat]
  omega

@[simp] theorem fieldNN_wordXNN (g x : Nibble) (nn : Byte) : fieldNN (wordXNN g x nn) = nn := by
  have h1 := g.isLt; have h2 := x.isLt; have h3 := nn.isLt
  apply BitVec.eq_of_toNat_eq
  rw [fieldNN_toNat, wordXNN_toNat]
  omega

@[simp] theorem fieldGroup_wordXYN (g x y n : Nibble) : fieldGroup (wordXYN g x y n) = g := by
  have h1 := g.isLt; have h2 := x.isLt; have h3 := y.isLt; have h4 := n.isLt
  apply BitVec.eq_of_toNat_eq
  rw [fieldGroup_toNat, wordXYN_toNat]
  omega

@[simp] theorem fieldX_wordXYN (g x y n : Nibble) : fieldX (wordXYN g x y n) = x := by
  have h1 := g.isLt; have h2 := x.isLt; have h3 := y.isLt; have h4 := n.isLt
  apply BitVec.eq_of_toNat_eq
  rw [fieldX_toNat, wordXYN_toNat]
  omega

@[simp] theorem fieldY_wordXYN (g x y n : Nibble) : fieldY (wordXYN g x y n) = y := by
  have h1 := g.isLt; have h2 := x.isLt; have h3 := y.isLt; have h4 := n.isLt
  apply BitVec.eq_of_toNat_eq
  rw [fieldY_toNat, wordXYN_toNat]
  omega

@[simp] theorem fieldN_wordXYN (g x y n : Nibble) : fieldN (wordXYN g x y n) = n := by
  have h1 := g.isLt; have h2 := x.isLt; have h3 := y.isLt; have h4 := n.isLt
  apply BitVec.eq_of_toNat_eq
  rw [fieldN_toNat, wordXYN_toNat]
  omega

/-! ### A word is its fields -/

theorem word_eq_wordNNN (w : Word) : wordNNN (fieldGroup w) (fieldNNN w) = w := by
  have h := w.isLt
  apply BitVec.eq_of_toNat_eq
  rw [wordNNN_toNat, fieldGroup_toNat, fieldNNN_toNat]
  omega

theorem word_eq_wordXNN (w : Word) : wordXNN (fieldGroup w) (fieldX w) (fieldNN w) = w := by
  have h := w.isLt
  apply BitVec.eq_of_toNat_eq
  rw [wordXNN_toNat, fieldGroup_toNat, fieldX_toNat, fieldNN_toNat]
  omega

theorem word_eq_wordXYN (w : Word) : wordXYN (fieldGroup w) (fieldX w) (fieldY w) (fieldN w) = w := by
  have h := w.isLt
  apply BitVec.eq_of_toNat_eq
  rw [wordXYN_toNat, fieldGroup_toNat, fieldX_toNat, fieldY_toNat, fieldN_toNat]
  omega

/-! ### Bytes and words -/

theorem wordOfBytes_toNat (hi lo : Byte) : (wordOfBytes hi lo).toNat = hi.toNat * 256 + lo.toNat := by
  rw [wordOfBytes, BitVec.toNat_append, ← Nat.shiftLeft_add_eq_or_of_lt lo.isLt, Nat.shiftLeft_eq]

/-- A word is its two bytes, high byte first (R84). -/
@[simp] theorem wordOfBytes_bytes (w : Word) : wordOfBytes (highByte w) (lowByte w) = w := by
  have h := w.isLt
  apply BitVec.eq_of_toNat_eq
  rw [wordOfBytes_toNat]
  simp [highByte, lowByte, BitVec.extractLsb'_toNat, Nat.shiftRight_eq_div_pow]
  omega

/-! ### The masks of the opcode map -/

theorem nibble_and_ones (g : Nibble) : g &&& 15#4 = g := BitVec.and_allOnes

theorem byte_and_ones (b : Byte) : b &&& 255#8 = b := BitVec.and_allOnes

theorem wordNNN_and_group (g : Nibble) (nnn : Addr) : wordNNN g nnn &&& 0xF000 = wordNNN g 0 := by
  rw [show (0xF000 : Word) = wordNNN 0xF 0 from by decide, wordNNN, wordNNN, BitVec.and_append, wordNNN]
  simp [nibble_and_ones]

theorem wordXNN_and_group (g x : Nibble) (nn : Byte) : wordXNN g x nn &&& 0xF000 = wordNNN g 0 := by
  rw [show (0xF000 : Word) = wordXNN 0xF 0 0 from by decide, wordXNN, wordXNN, BitVec.and_append, BitVec.and_append]
  simp [wordNNN, nibble_and_ones]

theorem wordXYN_and_group (g x y n : Nibble) : wordXYN g x y n &&& 0xF000 = wordNNN g 0 := by
  rw [show (0xF000 : Word) = wordXYN 0xF 0 0 0 from by decide, wordXYN, wordXYN, BitVec.and_append,
    BitVec.and_append, BitVec.and_append]
  simp [wordNNN, nibble_and_ones]

theorem wordXYN_and_groupN (g x y n : Nibble) : wordXYN g x y n &&& 0xF00F = wordXYN g 0 0 n := by
  rw [show (0xF00F : Word) = wordXYN 0xF 0 0 0xF from by decide, wordXYN, wordXYN, BitVec.and_append,
    BitVec.and_append, BitVec.and_append, wordXYN]
  simp [nibble_and_ones]

theorem wordXNN_and_groupNN (g x : Nibble) (nn : Byte) : wordXNN g x nn &&& 0xF0FF = wordXNN g 0 nn := by
  rw [show (0xF0FF : Word) = wordXNN 0xF 0 0xFF from by decide, wordXNN, wordXNN, BitVec.and_append,
    BitVec.and_append, wordXNN]
  simp [nibble_and_ones, byte_and_ones]

end Sys2Proof
end

