-- ==== Sys2Proof/Laws/Host.lean ====
section
/-! SUPPORT. The laws of the host operations and of the frame scheduler: what each can do, and the induction behind
"every operation keeps it", packaged once. -/

namespace Sys2Proof.Machine

/-! ### Timers -/

@[simp] theorem countDown_toNat (b : Byte) : (countDown b).toNat = b.toNat - 1 := by
  have hb := b.isLt
  unfold countDown
  split
  · rename_i h; subst h; rfl
  · rename_i h
    have : b.toNat ≠ 0 := fun e => h (BitVec.eq_of_toNat_eq e)
    rw [BitVec.toNat_sub]
    simp
    omega

theorem countDown_eq_zero (b : Byte) : countDown b = 0 ↔ b.toNat ≤ 1 := by
  rw [← BitVec.toNat_inj, countDown_toNat]
  simp
  omega

/-! ### Keys -/

/-- A delivery that resolves nothing changes the key alone (R411). -/
theorem State.deliverKeyAt_of_not_waiting (s : State) (k : Nibble) (p : Bool)
    (h : ∀ x, s.rs ≠ .waitingForKey x) : s.deliverKeyAt k p = s.setKey k p := by
  unfold State.deliverKeyAt
  split
  · rename_i x hx
    exact absurd hx (h x)
  · rfl

theorem State.deliverKeyAt_release (s : State) (k : Nibble) : s.deliverKeyAt k false = s.setKey k false := by
  unfold State.deliverKeyAt
  split <;> rfl

/-- A press while latched resolves the latch (R412). -/
theorem State.deliverKeyAt_press (s : State) (k x : Nibble) (h : s.rs = .waitingForKey x) :
    s.deliverKeyAt k true = (s.setKey k true).resolveLatch x k := by
  simp [State.deliverKeyAt, h]

theorem deliverKey_of_lt {k : Nat} (p : Bool) (s : State) (h : k < 16) :
    deliverKey k p s = .next (s.deliverKeyAt (BitVec.ofNat 4 k) p) := by
  simp [deliverKey, h]

theorem deliverKey_of_ge {k : Nat} (p : Bool) (s : State) (h : 16 ≤ k) :
    deliverKey k p s = .refused .keyIndexOutOfRange := by
  simp [deliverKey, Nat.not_lt.2 h]

/-- A queue of legal events is drained one by one (R421). -/
theorem drainEvents_legal (es : List KeyEvent) (h : ∀ e ∈ es, e.index < 16) (s : State) :
    drainEvents es s = .next (es.foldl (fun t e => t.deliverKeyAt (BitVec.ofNat 4 e.index) e.pressed) s) := by
  induction es generalizing s with
  | nil => rfl
  | cons e es ih =>
    rw [List.forall_mem_cons] at h
    rw [drainEvents, deliverKey_of_lt _ _ h.1]
    exact ih h.2 _

/-! ### What every operation keeps -/

/-- If every legal delivery keeps `P`, so does draining a queue. -/
theorem drainEvents_keeps {P : State → Prop} (hkey : ∀ s k p, P s → P (s.deliverKeyAt k p)) :
    ∀ (es : List KeyEvent) {s t : State}, P s → drainEvents es s = .next t → P t
  | [], s, t, hs, h => by cases h; exact hs
  | e :: es, s, t, hs, h => by
    by_cases he : e.index < 16
    · rw [drainEvents, deliverKey_of_lt _ _ he] at h
      exact drainEvents_keeps hkey es (hkey s _ _ hs) h
    · rw [drainEvents, deliverKey_of_ge _ _ (Nat.not_lt.1 he)] at h
      cases h

/-- If every step keeps `P`, so do a frame's slots. -/
theorem runSlots_keeps {P : State → Prop} (hstep : ∀ s t, P s → step s = .next t → P t) :
    ∀ (n : Nat) {s t : State} {outs : List StepOut}, P s → runSlots n s = .next (t, outs) → P t
  | 0, s, t, outs, hs, h => by cases h; exact hs
  | n + 1, s, t, outs, hs, h => by
    rw [runSlots] at h
    cases hst : step s with
    | next u =>
      rw [hst] at h
      cases hr : runSlots n u with
      | next p =>
        obtain ⟨v, os⟩ := p
        simp only [hr] at h
        cases h
        exact runSlots_keeps hstep n (hstep s u hs hst) hr
      | fault r => simp only [hr] at h; cases h
      | refused r => simp only [hr] at h; cases h
    | fault r => rw [hst] at h; cases h
    | refused r => rw [hst] at h; cases h

/-- A frame's slots give one output each. -/
theorem runSlots_length :
    ∀ (n : Nat) {s t : State} {outs : List StepOut}, runSlots n s = .next (t, outs) → outs.length = n
  | 0, s, t, outs, h => by cases h; rfl
  | n + 1, s, t, outs, h => by
    rw [runSlots] at h
    cases hst : step s with
    | next u =>
      rw [hst] at h
      cases hr : runSlots n u with
      | next p =>
        obtain ⟨v, os⟩ := p
        simp only [hr] at h
        cases h
        rw [List.length_cons, runSlots_length n hr]
      | fault r => simp only [hr] at h; cases h
      | refused r => simp only [hr] at h; cases h
    | fault r => rw [hst] at h; cases h
    | refused r => rw [hst] at h; cases h

/-- Everything a frame can do: nothing in `Faulted`, else events, slots and the end of the frame (R420, R429). -/
theorem frame_cases {events : List KeyEvent} {s u : State} {o : FrameOut} (h : frame events s = .next (u, o)) :
    (∃ c, s.faultCause = some c ∧ u = s ∧ o = ⟨none, none, some c, []⟩) ∨
    (s.faultCause = none ∧ ∃ t v outs, drainEvents events s = .next t ∧
      runSlots t.slots t.carryAcc = .next (v, outs) ∧ endFrame v outs = (u, o)) := by
  unfold frame at h
  split at h
  · rename_i c hc
    cases h
    exact .inl ⟨c, hc, rfl, rfl⟩
  · rename_i hc
    refine .inr ⟨hc, ?_⟩
    split at h
    · rename_i t ht
      split at h
      · rename_i v outs hv
        injection h with h
        exact ⟨t, v, outs, ht, hv, h⟩
      · cases h
      · cases h
    · cases h
    · cases h

/-- If deliveries, steps, the accumulator's update and the end of a frame keep `P`, so does a frame. -/
theorem frame_keeps {P : State → Prop} (hkey : ∀ s k p, P s → P (s.deliverKeyAt k p))
    (hstep : ∀ s t, P s → step s = .next t → P t) (hacc : ∀ s, P s → P s.carryAcc)
    (hend : ∀ s outs, P s → P (endFrame s outs).1) {events : List KeyEvent} {s u : State} {o : FrameOut}
    (hs : P s) (h : frame events s = .next (u, o)) : P u := by
  rcases frame_cases h with ⟨c, -, rfl, -⟩ | ⟨-, t, v, outs, ht, hv, he⟩
  · exact hs
  · have := hend v outs (runSlots_keeps hstep _ (hacc t (drainEvents_keeps hkey events hs ht)) hv)
    rwa [he] at this

/-! ### Loading -/

theorem State.storeBytes_eq (bs : List Byte) (s : State) (a : Nat) :
    ∃ m : Memory, s.storeBytes a bs = { s with mem := m } := by
  induction bs generalizing s a with
  | nil => exact ⟨s.mem, rfl⟩
  | cons b bs ih =>
    obtain ⟨m, hm⟩ := ih (s.writeMem (BitVec.ofNat 12 a) b) (a + 1)
    exact ⟨m, hm⟩

/-- What `load` does to each byte, when the bytes fit (R410). -/
theorem State.storeBytes_readMem (bs : List Byte) (s : State) (a : Nat) (h : a + bs.length ≤ 4096) (x : Addr) :
    (s.storeBytes a bs).readMem x =
      if hx : a ≤ x.toNat ∧ x.toNat < a + bs.length then bs[x.toNat - a]'(by omega) else s.readMem x := by
  induction bs generalizing s a with
  | nil =>
    rw [dif_neg (by simp only [List.length_nil]; omega)]
    rfl
  | cons b bs ih =>
    rw [List.length_cons] at h
    rw [State.storeBytes, ih _ _ (by omega), State.readMem_writeMem]
    have ha : (BitVec.ofNat 12 a).toNat = a := by rw [BitVec.toNat_ofNat]; omega
    by_cases hx : BitVec.ofNat 12 a = x
    · have hxa : x.toNat = a := by rw [← hx, ha]
      rw [dif_neg (by omega), if_pos hx, dif_pos (by rw [List.length_cons]; omega)]
      simp [hxa]
    · have hxa : x.toNat ≠ a := fun e => hx (BitVec.eq_of_toNat_eq (by rw [ha, e]))
      rw [if_neg hx]
      by_cases hin : a + 1 ≤ x.toNat ∧ x.toNat < a + 1 + bs.length
      · rw [dif_pos hin, dif_pos (by rw [List.length_cons]; omega)]
        rw [List.getElem_cons, dif_neg (by omega)]
        congr 1
      · rw [dif_neg hin, dif_neg (by rw [List.length_cons]; omega)]

theorem State.storeBytes_wf (bs : List Byte) (s : State) (a : Nat) (h : Memory.wf s.cfg s.mem = true) :
    Memory.wf s.cfg (s.storeBytes a bs).mem = true := by
  induction bs generalizing s a with
  | nil => exact h
  | cons b bs ih => exact ih (s.writeMem (BitVec.ofNat 12 a) b) (a + 1) (s.writeMem_wf _ _ h)

end Sys2Proof.Machine
end

