-- ==== Sys2Proof/Laws/PerInstr.lean ====
section
/-! SUPPORT. Per instruction: the encoder's word lies in the instruction's row of the opcode map (spec/30_encoding.md
rule R121), whatever its operands. -/

namespace Sys2Proof.Laws.EncodingRow

/-- `word & mask = match` for the word and the row of an instruction (R121). -/
def Statement (i : Instr) : Prop := encode i &&& (opcodeRow i).mask = (opcodeRow i).bits

theorem cls : Statement .cls := rfl
theorem ret : Statement .ret := rfl
theorem sys (nnn : Addr) : Statement (.sys nnn) := (wordNNN_and_group _ nnn).trans rfl
theorem jp (nnn : Addr) : Statement (.jp nnn) := (wordNNN_and_group _ nnn).trans rfl
theorem call (nnn : Addr) : Statement (.call nnn) := (wordNNN_and_group _ nnn).trans rfl
theorem seImm (x : Nibble) (nn : Byte) : Statement (.seImm x nn) := (wordXNN_and_group _ x nn).trans rfl
theorem sneImm (x : Nibble) (nn : Byte) : Statement (.sneImm x nn) := (wordXNN_and_group _ x nn).trans rfl
theorem seReg (x y : Nibble) : Statement (.seReg x y) := (wordXYN_and_groupN _ x y _).trans rfl
theorem ldImm (x : Nibble) (nn : Byte) : Statement (.ldImm x nn) := (wordXNN_and_group _ x nn).trans rfl
theorem addImm (x : Nibble) (nn : Byte) : Statement (.addImm x nn) := (wordXNN_and_group _ x nn).trans rfl
theorem ldReg (x y : Nibble) : Statement (.ldReg x y) := (wordXYN_and_groupN _ x y _).trans rfl
theorem orReg (x y : Nibble) : Statement (.orReg x y) := (wordXYN_and_groupN _ x y _).trans rfl
theorem andReg (x y : Nibble) : Statement (.andReg x y) := (wordXYN_and_groupN _ x y _).trans rfl
theorem xorReg (x y : Nibble) : Statement (.xorReg x y) := (wordXYN_and_groupN _ x y _).trans rfl
theorem addReg (x y : Nibble) : Statement (.addReg x y) := (wordXYN_and_groupN _ x y _).trans rfl
theorem sub (x y : Nibble) : Statement (.sub x y) := (wordXYN_and_groupN _ x y _).trans rfl
theorem shr (x y : Nibble) : Statement (.shr x y) := (wordXYN_and_groupN _ x y _).trans rfl
theorem subn (x y : Nibble) : Statement (.subn x y) := (wordXYN_and_groupN _ x y _).trans rfl
theorem shl (x y : Nibble) : Statement (.shl x y) := (wordXYN_and_groupN _ x y _).trans rfl
theorem sneReg (x y : Nibble) : Statement (.sneReg x y) := (wordXYN_and_groupN _ x y _).trans rfl
theorem ldI (nnn : Addr) : Statement (.ldI nnn) := (wordNNN_and_group _ nnn).trans rfl
theorem jpV0 (nnn : Addr) : Statement (.jpV0 nnn) := (wordNNN_and_group _ nnn).trans rfl
theorem rnd (x : Nibble) (nn : Byte) : Statement (.rnd x nn) := (wordXNN_and_group _ x nn).trans rfl
theorem drw (x y n : Nibble) : Statement (.drw x y n) := (wordXYN_and_group _ x y n).trans rfl
theorem skp (x : Nibble) : Statement (.skp x) := (wordXNN_and_groupNN _ x _).trans rfl
theorem sknp (x : Nibble) : Statement (.sknp x) := (wordXNN_and_groupNN _ x _).trans rfl
theorem ldXDt (x : Nibble) : Statement (.ldXDt x) := (wordXNN_and_groupNN _ x _).trans rfl
theorem ldXK (x : Nibble) : Statement (.ldXK x) := (wordXNN_and_groupNN _ x _).trans rfl
theorem ldDtX (x : Nibble) : Statement (.ldDtX x) := (wordXNN_and_groupNN _ x _).trans rfl
theorem ldStX (x : Nibble) : Statement (.ldStX x) := (wordXNN_and_groupNN _ x _).trans rfl
theorem addIX (x : Nibble) : Statement (.addIX x) := (wordXNN_and_groupNN _ x _).trans rfl
theorem ldFX (x : Nibble) : Statement (.ldFX x) := (wordXNN_and_groupNN _ x _).trans rfl
theorem ldBX (x : Nibble) : Statement (.ldBX x) := (wordXNN_and_groupNN _ x _).trans rfl
theorem ldMemX (x : Nibble) : Statement (.ldMemX x) := (wordXNN_and_groupNN _ x _).trans rfl
theorem ldXMem (x : Nibble) : Statement (.ldXMem x) := (wordXNN_and_groupNN _ x _).trans rfl

end Sys2Proof.Laws.EncodingRow
end

