-- ==== Sys2Proof/Laws/Step.lean ====
section
/-! SUPPORT. What a step can do, said once; the frame relation `OnlyChanges` as a preorder; the end of a frame by run
state; and that the register transfers read nothing but memory, registers and `I`. -/

namespace Sys2Proof.Machine

/-! ### Frames -/

theorem Part.same_refl (p : Part) (s : State) : p.Same s s := by cases p <;> simp [Part.Same]

theorem Part.same_trans {p : Part} {s t u : State} (h : p.Same s t) (h' : p.Same t u) : p.Same s u := by
  cases p <;> simp_all [Part.Same]

theorem OnlyChanges.refl (ps : List Part) (s : State) : OnlyChanges ps s s := fun p _ => Part.same_refl p s

theorem OnlyChanges.trans {ps : List Part} {s t u : State} (h : OnlyChanges ps s t) (h' : OnlyChanges ps t u) :
    OnlyChanges ps s u := fun p hp => Part.same_trans (h p hp) (h' p hp)

theorem OnlyChanges.mono {ps qs : List Part} {s t : State} (h : OnlyChanges ps s t) (hsub : ∀ p ∈ ps, p ∈ qs) :
    OnlyChanges qs s t := fun p hp => h p fun hp' => hp (hsub p hp')

/-! ### The step -/

/-- Everything a step can do: execute the fetched instruction, report an unknown word, or wait, or stay stopped. -/
theorem step_cases {s t : State} (h : step s = .next t) :
    (s.rs = .running ∧ ∃ i, decode s.fetchWord = .ok i ∧ exec i (s.setOut StepOut.none) = .next t) ∨
    (s.rs = .running ∧ (∃ r, decode s.fetchWord = .error r) ∧ t = (s.setOut StepOut.none).reportUnknown) ∨
    ((∃ x, s.rs = .waitingForKey x) ∧ t = s.setOut StepOut.none) ∨
    (∃ c, s.rs = .faulted c ∧ t = s.setOut ⟨false, some c⟩) := by
  unfold step at h
  dsimp only at h
  rw [State.setOut_fetchWord] at h
  split at h
  · rename_i hr
    split at h
    · rename_i i hi
      exact .inl ⟨hr, i, hi, h⟩
    · rename_i r hi
      injection h with h
      exact .inr (.inl ⟨hr, ⟨r, hi⟩, h.symm⟩)
  · rename_i x hr
    injection h with h
    exact .inr (.inr (.inl ⟨⟨x, hr⟩, h.symm⟩))
  · rename_i c hr
    injection h with h
    exact .inr (.inr (.inr ⟨c, hr, h.symm⟩))

/-! ### Register transfers depend on nothing else -/

/-- FX55's writes depend on the parameters, `MEM`, `V` and `I` alone. -/
theorem State.storeRegs_congr (x : Nibble) (s s' : State) (hcfg : s'.cfg = s.cfg) (hv : s'.v = s.v) (hi : s'.i = s.i)
    (hmem : s'.mem = s.mem) : s'.storeRegs x = { s' with mem := (s.storeRegs x).mem } := by
  unfold State.storeRegs
  generalize x.toNat + 1 = n
  induction n with
  | zero => cases s'; simp_all
  | succ n ih =>
    obtain ⟨m, hm⟩ := s.storeFold_eq n
    rw [hm] at ih
    rw [List.range_succ, List.foldl_append, List.foldl_append, ih, hm]
    simp [State.writeAtI, State.writeMem, State.addrI, State.getV, hcfg, hv, hi]

/-- FX65's writes depend on the parameters, `MEM`, `V` and `I` alone. -/
theorem State.loadRegs_congr (x : Nibble) (s s' : State) (hcfg : s'.cfg = s.cfg) (hv : s'.v = s.v) (hi : s'.i = s.i)
    (hmem : s'.mem = s.mem) : s'.loadRegs x = { s' with v := (s.loadRegs x).v } := by
  unfold State.loadRegs
  generalize x.toNat + 1 = n
  induction n with
  | zero => cases s'; simp_all
  | succ n ih =>
    obtain ⟨v, hv'⟩ := s.loadFold_eq n
    rw [hv'] at ih
    rw [List.range_succ, List.foldl_append, List.foldl_append, ih, hv']
    simp [State.readAtI, State.setV, State.addrI, State.readMem, hcfg, hmem, hi]

/-! ### The end of a frame -/

theorem State.newTone_iff (s : State) : s.newTone = true ↔ 1 < s.st.toNat ∨ s.sndStart = true := by
  rw [State.newTone, Bool.or_eq_true, bne_iff_ne, Ne, countDown_eq_zero, Nat.not_le]

theorem State.faultCause_eq_none {s : State} : s.faultCause = none ↔ s.NotFaulted := by
  unfold State.faultCause State.NotFaulted
  split <;> simp_all

theorem State.faultCause_eq_some {s : State} {c : Cause} : s.faultCause = some c ↔ s.rs = .faulted c := by
  unfold State.faultCause
  split <;> simp_all

/-- Everything the end of a frame does when no fault is held (R424 to R426). -/
theorem endFrame_of_notFaulted (v : State) (outs : List StepOut) (h : v.NotFaulted) :
    endFrame v outs = ({ v.ticked with redraw := false },
      ⟨if v.redraw then some v.disp else none, if (tickTimers v).2.edge then some v.newTone else none, none, outs⟩) := by
  unfold endFrame tickTimers
  dsimp only
  split
  · rename_i c hc
    exact absurd (State.faultCause_eq_some.1 hc) (h c)
  · rfl

/-- Everything the end of a frame does when it ends in `Faulted` (R429). -/
theorem endFrame_of_faulted (v : State) (outs : List StepOut) (c : Cause) (h : v.rs = .faulted c) :
    endFrame v outs = ({ v.ticked with redraw := false, tone := false },
      ⟨if v.redraw then some v.disp else none,
        if v.newTone then some false else if (tickTimers v).2.edge then some v.newTone else none, some c, outs⟩) := by
  unfold endFrame tickTimers
  dsimp only
  split
  · rename_i c' hc
    have := (State.faultCause_eq_some.1 hc).symm.trans h
    injection this with this
    subst this
    rfl
  · rename_i hc
    exact absurd h (State.faultCause_eq_none.1 hc c)

end Sys2Proof.Machine
end

