-- ==== Sys2Proof/Tests/Slice0.lean ====
section
/-! SUPPORT. The model's own tests: the checks of WellFormed, a word of every instruction written out from its pattern in
spec/30_encoding.md rule R121, single steps from the vectors of spec/95_test_vectors.md (named in each comment), and a
witness for the hypotheses of every statement that has some. -/

namespace Sys2Proof.Tests

open Sys2Proof Sys2Proof.Machine

/-! ### Helpers -/

/-- A property of the next state; false of a fault or a refusal. -/
def onNext (o : Result) (p : State → Bool) : Bool :=
  match o with
  | .next t => p t
  | .fault _ => false
  | .refused _ => false

/-- One step with the word under test at `PC`. -/
def stepOn (s : State) (w : Nat) (p : State → Bool) : Bool := onNext (step (s.withFetchWord 16 w)) p

/-- The reset state. -/
def s0 : State := State.reset
/-- The reset state with one register set, or two. -/
def s1 (x : Nibble) (b : Byte) : State := s0.setV x b
def s2 (x : Nibble) (b : Byte) (y : Nibble) (c : Byte) : State := (s0.setV x b).setV y c
/-- A full call stack, under each policy. -/
def full : State := { s0 with sp := 16 }
def saturating : Config := { defaultConfig with stackPolicy := .saturate }
def fullSat : State := { full with cfg := saturating }
/-- Waiting for a key into V3. -/
def waiting : State := s0.setRs (.waitingForKey 3)
/-- Stopped by a call on a full stack at 0x200. -/
def faulted : State := { full with rs := .faulted .stackOverflow, faultPc := 0x200 }
/-- The byte `b` at 0x300, with `I` there. -/
def at300 (s : State) (b : Byte) : State := (s.setI 0x300).writeMem 0x300 b

/-! ### WellFormed: one ill-formed term for each check -/

-- R116: 0x00E0 and 0x00EE are CLS and RET, so 0NNN has neither address.
theorem test_sys_0E0_ill_formed : WellFormed (.sys 0x0E0) = false := by decide
theorem test_sys_0EE_ill_formed : WellFormed (.sys 0x0EE) = false := by decide
theorem test_sys_0E1_well_formed : WellFormed (.sys 0x0E1) = true := by decide

/-! ### Decoding: one word of every row of R121, bit by bit -/

-- 00E0
theorem test_decode_cls : decode 0b0000000011100000 = .ok (.cls) := by decide
-- 00EE
theorem test_decode_ret : decode 0b0000000011101110 = .ok (.ret) := by decide
-- 0NNN
theorem test_decode_sys : decode 0b0000000100100011 = .ok (.sys 0x123) := by decide
-- 1NNN
theorem test_decode_jp : decode 0b0001001000110100 = .ok (.jp 0x234) := by decide
-- 2NNN
theorem test_decode_call : decode 0b0010001000010000 = .ok (.call 0x210) := by decide
-- 3XNN
theorem test_decode_seImm : decode 0b0011001101000010 = .ok (.seImm 3 0x42) := by decide
-- 4XNN
theorem test_decode_sneImm : decode 0b0100001000000101 = .ok (.sneImm 2 0x05) := by decide
-- 5XY0
theorem test_decode_seReg : decode 0b0101001101000000 = .ok (.seReg 3 4) := by decide
-- 6XNN
theorem test_decode_ldImm : decode 0b0110101001111011 = .ok (.ldImm 10 0x7B) := by decide
-- 7XNN
theorem test_decode_addImm : decode 0b0111000111111111 = .ok (.addImm 1 0xFF) := by decide
-- 8XY0
theorem test_decode_ldReg : decode 0b1000001000110000 = .ok (.ldReg 2 3) := by decide
-- 8XY1
theorem test_decode_orReg : decode 0b1000001000110001 = .ok (.orReg 2 3) := by decide
-- 8XY2
theorem test_decode_andReg : decode 0b1000001000110010 = .ok (.andReg 2 3) := by decide
-- 8XY3
theorem test_decode_xorReg : decode 0b1000001000110011 = .ok (.xorReg 2 3) := by decide
-- 8XY4
theorem test_decode_addReg : decode 0b1000001000110100 = .ok (.addReg 2 3) := by decide
-- 8XY5
theorem test_decode_sub : decode 0b1000001000110101 = .ok (.sub 2 3) := by decide
-- 8XY6
theorem test_decode_shr : decode 0b1000001000110110 = .ok (.shr 2 3) := by decide
-- 8XY7
theorem test_decode_subn : decode 0b1000001000110111 = .ok (.subn 2 3) := by decide
-- 8XYE
theorem test_decode_shl : decode 0b1000001000111110 = .ok (.shl 2 3) := by decide
-- 9XY0
theorem test_decode_sneReg : decode 0b1001101010110000 = .ok (.sneReg 10 11) := by decide
-- ANNN
theorem test_decode_ldI : decode 0b1010001100000000 = .ok (.ldI 0x300) := by decide
-- BNNN
theorem test_decode_jpV0 : decode 0b1011001011111111 = .ok (.jpV0 0x2FF) := by decide
-- CXNN
theorem test_decode_rnd : decode 0b1100001100001111 = .ok (.rnd 3 0x0F) := by decide
-- DXYN
theorem test_decode_drw : decode 0b1101000100100101 = .ok (.drw 1 2 5) := by decide
-- EX9E
theorem test_decode_skp : decode 0b1110011110011110 = .ok (.skp 7) := by decide
-- EXA1
theorem test_decode_sknp : decode 0b1110011110100001 = .ok (.sknp 7) := by decide
-- FX07
theorem test_decode_ldXDt : decode 0b1111001100000111 = .ok (.ldXDt 3) := by decide
-- FX0A
theorem test_decode_ldXK : decode 0b1111001100001010 = .ok (.ldXK 3) := by decide
-- FX15
theorem test_decode_ldDtX : decode 0b1111001100010101 = .ok (.ldDtX 3) := by decide
-- FX18
theorem test_decode_ldStX : decode 0b1111001100011000 = .ok (.ldStX 3) := by decide
-- FX1E
theorem test_decode_addIX : decode 0b1111001100011110 = .ok (.addIX 3) := by decide
-- FX29
theorem test_decode_ldFX : decode 0b1111001100101001 = .ok (.ldFX 3) := by decide
-- FX33
theorem test_decode_ldBX : decode 0b1111101000110011 = .ok (.ldBX 10) := by decide
-- FX55
theorem test_decode_ldMemX : decode 0b1111111101010101 = .ok (.ldMemX 15) := by decide
-- FX65
theorem test_decode_ldXMem : decode 0b1111001001100101 = .ok (.ldXMem 2) := by decide

-- Table bits are stored high byte first (R84), and one word of each unknown group is rejected by name (R118).
theorem test_decode_bytes : decodeBytes? [0x6A, 0x7B] = some (.ldImm 10 0x7B) := by decide
theorem test_decode_table_word : decodeTableWord 16 0xF265 = some (.ldXMem 2) := by decide
theorem test_decode_unknown : decode 0x5121 = .error .unknownGroup5 ∧ decode 0x801F = .error .unknownGroup8 ∧
    decode 0x9121 = .error .unknownGroup9 ∧ decode 0xE000 = .error .unknownGroupE ∧
    decode 0xF000 = .error .unknownGroupF := by decide
theorem test_decode_truncated : decodeBytes [0x6A] = .error .truncated := by decide

/-! ### Assembler syntax: lines of the programs of L3 -/

theorem test_assembly_lines :
    assemble (.instr .add [.reg 1, .byte 0xFF]) = some 0x71FF ∧ assemble (.instr .ld [.reg 2, .atI]) = some 0xF265 ∧
    assemble (.instr .shl [.reg 0]) = some 0x800E ∧ assemble (.instr .drw [.reg 1, .reg 2, .rows 1]) = some 0xD121 ∧
    assemble (.instr .sys [.addr 0x0EE]) = none ∧ assemblyOfWord 0x5121 = .data 0x5121 := by decide

/-! ### The step engine (L2.1) -/

-- DE-4
theorem test_unknown_word : stepOn s0 0x5121 (fun t => t.pc == 0x202 && t.out == ⟨true, none⟩) = true := by
  decide
-- DE-13
theorem test_fetch_wraps : stepOn (({ s0 with pc := 0xFFF }).writeMem 0x000 0x12) 0x6012 (fun t => t.getV 0 == 0x12 && t.pc == 0x001) = true := by
  decide
-- DE-15
theorem test_odd_pc : stepOn { s0 with pc := 0x201 } 0x6107 (fun t => t.getV 1 == 7 && t.pc == 0x203) = true := by
  decide
-- DE-16: a step while waiting changes nothing, whatever stands at `PC`
theorem test_step_waiting : onNext (step waiting) (fun t => t == { waiting with out := ⟨false, none⟩ }) = true := by
  decide
-- DE-17
theorem test_step_faulted : onNext (step faulted) (fun t => t.out == ⟨false, some .stackOverflow⟩ && t.pc == 0x200) = true := by
  decide

/-! ### Control flow (L2.2) -/

-- DE-2
theorem test_sys : stepOn s0 0x0123 (fun t => t.pc == 0x202 && t.out == ⟨false, none⟩) = true := by
  decide
-- DE-3: not 00E0
theorem test_sys_00E1 : stepOn s0 0x00E1 (fun t => t.pc == 0x202 && t.redraw == false) = true := by
  decide
-- CF-2
theorem test_jp : stepOn s0 0x1FFF (fun t => t.pc == 0xFFF) = true := by
  decide
-- DE-18
theorem test_jp_self : stepOn s0 0x1200 (fun t => t.pc == 0x200) = true := by
  decide
-- CF-4
theorem test_call_wraps : stepOn { s0 with pc := 0xFFE } 0x2300 (fun t => t.stack[0] == 0x000 && t.sp == 1 && t.pc == 0x300) = true := by
  decide
-- CF-5
theorem test_call_full_fatal : stepOn full 0x2300 (fun t => t.rs == .faulted .stackOverflow && t.faultPc == 0x200 && t.pc == 0x200 && t.sp == 16 && causeCode t.out.fault == 2) = true := by
  decide
-- CF-7
theorem test_ret : stepOn { s0 with sp := 1, stack := s0.stack.set 0 0x206 } 0x00EE (fun t => t.sp == 0 && t.pc == 0x206 && t.stack[0] == 0x206) = true := by
  decide
-- CF-9
theorem test_ret_empty_saturate : stepOn { s0 with cfg := saturating } 0x00EE (fun t => t.pc == 0x202 && t.sp == 0 && causeCode t.out.fault == 3 && t.rs == .running) = true := by
  decide
-- CF-10
theorem test_seImm_taken : stepOn s0 0x3100 (fun t => t.pc == 0x204) = true := by
  decide
-- CF-12
theorem test_seImm_wraps : stepOn { s0 with pc := 0xFFC } 0x3000 (fun t => t.pc == 0x000) = true := by
  decide
-- CF-13
theorem test_sneImm_untaken : stepOn (s1 2 5) 0x4205 (fun t => t.pc == 0x202) = true := by
  decide
-- CF-14
theorem test_sneImm_taken : stepOn (s1 2 6) 0x4205 (fun t => t.pc == 0x204) = true := by
  decide
-- CF-15
theorem test_seReg_taken : stepOn (s2 3 9 4 9) 0x5340 (fun t => t.pc == 0x204) = true := by
  decide
-- CF-16
theorem test_seReg_untaken : stepOn (s2 3 9 4 8) 0x5340 (fun t => t.pc == 0x202) = true := by
  decide
-- CF-18
theorem test_sneReg_taken : stepOn (s2 0 1 1 2) 0x9010 (fun t => t.pc == 0x204) = true := by
  decide
-- CF-19
theorem test_sneReg_untaken : stepOn (s1 5 7) 0x9550 (fun t => t.pc == 0x202) = true := by
  decide
-- CF-21
theorem test_jpV0_wraps : stepOn (s1 0 1) 0xBFFF (fun t => t.pc == 0x000) = true := by
  decide
-- CF-22, V0 whatever the X nibble
theorem test_jpV0_odd : stepOn (s2 0 0xFF 2 0x11) 0xB200 (fun t => t.pc == 0x2FF) = true := by
  decide

/-! ### Register loads and the ALU (L2.3) -/

-- AL-1
theorem test_ldImm : stepOn s0 0x6FAB (fun t => t.getV 15 == 0xAB) = true := by
  decide
-- AL-3
theorem test_addImm_no_flag : stepOn (s2 0 0xFF 15 5) 0x7001 (fun t => t.getV 0 == 0 && t.getV 15 == 5) = true := by
  decide
-- AL-4
theorem test_addImm_down : stepOn (s1 0 0x10) 0x70FF (fun t => t.getV 0 == 0x0F && t.getV 15 == 0) = true := by
  decide
-- AL-5
theorem test_ldReg : stepOn (s1 1 9) 0x8010 (fun t => t.getV 0 == 9 && t.getV 1 == 9) = true := by
  decide
-- AL-6
theorem test_orReg_keeps_flag : stepOn ((s2 0 0x0F 1 0xF0).setV 15 1) 0x8011 (fun t => t.getV 0 == 0xFF && t.getV 15 == 1) = true := by
  decide
-- AL-7
theorem test_andReg : stepOn (s2 0 0x3C 1 0x0F) 0x8012 (fun t => t.getV 0 == 0x0C) = true := by
  decide
-- AL-8
theorem test_xorReg : stepOn (s2 0 0xFF 1 0x0F) 0x8013 (fun t => t.getV 0 == 0xF0) = true := by
  decide
-- AL-9
theorem test_xorReg_same : stepOn (s1 2 0x5A) 0x8223 (fun t => t.getV 2 == 0) = true := by
  decide
-- AL-10
theorem test_addReg_carry : stepOn (s2 0 200 1 100) 0x8014 (fun t => t.getV 0 == 44 && t.getV 15 == 1) = true := by
  decide
-- AL-14
theorem test_addReg_flag_wins : stepOn (s1 15 0xFF) 0x8FF4 (fun t => t.getV 15 == 1) = true := by
  decide
-- AL-15
theorem test_sub_borrow : stepOn (s2 0 5 1 10) 0x8015 (fun t => t.getV 0 == 251 && t.getV 15 == 0) = true := by
  decide
-- AL-17
theorem test_sub_equal : stepOn ((s2 0 7 1 7).setV 15 1) 0x8015 (fun t => t.getV 0 == 0 && t.getV 15 == 0) = true := by
  decide
-- AL-19 and AL-20: Y ignored
theorem test_shr : stepOn (s2 0 5 1 0xFF) 0x8016 (fun t => t.getV 0 == 2 && t.getV 15 == 1) = true := by
  decide
-- AL-21
theorem test_shr_flag_wins : stepOn (s1 15 2) 0x8F06 (fun t => t.getV 15 == 0) = true := by
  decide
-- AL-22
theorem test_subn_borrow : stepOn (s2 0 10 1 5) 0x8017 (fun t => t.getV 0 == 251 && t.getV 15 == 0) = true := by
  decide
-- AL-23
theorem test_subn : stepOn (s2 0 5 1 10) 0x8017 (fun t => t.getV 0 == 5 && t.getV 15 == 1) = true := by
  decide
-- AL-26
theorem test_shl : stepOn (s1 0 0x80) 0x800E (fun t => t.getV 0 == 0 && t.getV 15 == 1) = true := by
  decide
-- AL-28
theorem test_shl_flag_wins : stepOn (s1 15 0x81) 0x8F0E (fun t => t.getV 15 == 1) = true := by
  decide
-- AL-30, with the draw counted
theorem test_rnd_zero_mask : stepOn (s1 0 7) 0xC000 (fun t => t.pc == 0x202 && t.draws == 1) = true := by
  decide

/-! ### Index and memory (L2.4) -/

-- IM-1
theorem test_ldI : stepOn s0 0xA123 (fun t => t.i == 0x123 && t.pc == 0x202) = true := by
  decide
-- IM-3
theorem test_addIX_wraps : stepOn ((s1 0 1).setI 0xFFF) 0xF01E (fun t => t.i == 0x000 && t.getV 15 == 0) = true := by
  decide
-- IM-4
theorem test_ldFX : stepOn (s1 0 0x0A) 0xF029 (fun t => t.i == 0x082) = true := by
  decide
-- IM-6
theorem test_ldFX_past_font : stepOn (s1 0 0xFF) 0xF029 (fun t => t.i == 0x54B) = true := by
  decide
-- IM-10
theorem test_ldBX : stepOn ((s1 10 123).setI 0x300) 0xFA33 (fun t => t.readMem 0x300 == 1 && t.readMem 0x301 == 2 && t.readMem 0x302 == 3 && t.i == 0x300) = true := by
  decide
-- IM-11
theorem test_ldBX_wraps : stepOn ((s1 0 123).setI 0xFFF) 0xF033 (fun t => t.readMem 0xFFF == 1 && t.readMem 0x000 == 2 && t.readMem 0x001 == 3) = true := by
  decide
-- IM-12
theorem test_ldMemX_one : stepOn ((s2 0 0xAA 1 0xBB).setI 0x300) 0xF055 (fun t => t.readMem 0x300 == 0xAA && t.readMem 0x301 == 0 && t.i == 0x300) = true := by
  decide
-- IM-14
theorem test_ldMemX_wraps : stepOn (((s2 0 0x11 1 0x22).setV 2 0x33).setI 0xFFE) 0xF255 (fun t => t.readMem 0xFFE == 0x11 && t.readMem 0xFFF == 0x22 && t.readMem 0x000 == 0x33) = true := by
  decide
-- IM-16
theorem test_ldXMem_one : stepOn (at300 (s1 1 0x55) 0x77) 0xF065 (fun t => t.getV 0 == 0x77 && t.getV 1 == 0x55) = true := by
  decide
-- IM-15
theorem test_ldXMem : stepOn ((at300 s0 1).writeMem 0x302 3) 0xF265 (fun t => t.getV 0 == 1 && t.getV 1 == 0 && t.getV 2 == 3 && t.i == 0x300) = true := by
  decide

/-! ### Display (L2.5) -/

-- DI-1
theorem test_cls : stepOn { s1 15 9 with disp := Display.setPixel s0.disp (pixelIndex 5 3) true } 0x00E0 (fun t => t.disp == Display.blank && t.redraw && t.getV 15 == 9) = true := by
  decide +kernel
-- DI-10: columns 63 and 0 to 6 of row 31
theorem test_drw_corner : stepOn (at300 (s2 1 63 2 31) 0xFF) 0xD121 (fun t => t.disp[31] == 0x800000000000007F && t.getV 15 == 0 && t.redraw) = true := by
  decide +kernel

/-! ### Keys and timers (L2.6) -/

-- KT-3
theorem test_skp_masked : stepOn ((s1 0 0x13).setKey 3 true) 0xE09E (fun t => t.pc == 0x204) = true := by
  decide
-- KT-2
theorem test_skp_untaken : stepOn (s1 0 7) 0xE09E (fun t => t.pc == 0x202) = true := by
  decide
-- KT-4
theorem test_sknp_taken : stepOn (s1 0 7) 0xE0A1 (fun t => t.pc == 0x204) = true := by
  decide
-- KT-5
theorem test_sknp_untaken : stepOn ((s1 0 7).setKey 7 true) 0xE0A1 (fun t => t.pc == 0x202) = true := by
  decide
-- KT-6
theorem test_ldXDt : stepOn (s0.setDt 30) 0xF307 (fun t => t.getV 3 == 30 && t.dt == 30) = true := by
  decide
-- KT-7
theorem test_ldDtX : stepOn (s1 0 30) 0xF015 (fun t => t.dt == 30 && t.st == 0) = true := by
  decide
-- KT-8
theorem test_ldStX_starts : stepOn (s1 0 30) 0xF018 (fun t => t.st == 30 && t.sndStart) = true := by
  decide
-- KT-9
theorem test_ldStX_on : stepOn { s1 0 20 with st := 10, tone := true } 0xF018 (fun t => t.st == 20 && !t.sndStart) = true := by
  decide
-- KT-11
theorem test_ldXK : stepOn (s1 3 9) 0xF30A (fun t => t.rs == .waitingForKey 3 && t.pc == 0x200 && t.getV 3 == 9) = true := by
  decide
-- KT-12
theorem test_key_press : onNext (deliverKey 7 true waiting)
    (fun t => t.getKey 7 && t.getV 3 == 7 && t.pc == 0x202 && t.rs == .running) = true := by decide
-- KT-13
theorem test_key_release : onNext (deliverKey 7 false waiting)
    (fun t => !t.getKey 7 && t.pc == 0x200 && t.rs == .waitingForKey 3) = true := by decide
-- KT-15
theorem test_key_first_press : onNext (drainEvents [⟨4, true⟩, ⟨9, true⟩] waiting)
    (fun t => t.getV 3 == 4 && t.pc == 0x202 && t.getKey 9) = true := by decide

/-! ### Timers, sound, frames and loading (L2.7, L2.8, L1-11) -/

-- TI-3
theorem test_sixty_ticks : (State.tickedTimes 60 (s0.setDt 30)).dt = 0 := by decide +kernel
-- TI-5: a one-tick beep
theorem test_short_beep : (tickTimers { s0 with st := 1, sndStart := true }).2 = ⟨true, true⟩ ∧
    (tickTimers { s0 with st := 0, tone := true }).2 = ⟨true, false⟩ := by decide
-- TI-7
theorem test_stop_by_write : (tickTimers { s0 with st := 0, tone := true }).2 = ⟨true, false⟩ := by decide
-- SC-1
theorem test_slots : ({ s0 with acc := 40 }).slots = 9 ∧ s0.slots = 8 ∧ s0.carryAcc.acc = 20 := by decide
-- SC-10: the tick gives no edge, the fault turns the tone off
theorem test_fault_silences : (endFrame { faulted with st := 40, tone := true } []).2.sound = some false ∧
    (endFrame { faulted with st := 40, tone := true } []).1.st = 39 := by decide
-- L1-11, on the boundary
theorem test_load_fits : (load (List.replicate 2 0xAA) 0xFFE s0).toOption.isSome = true := by decide
theorem test_load_too_long : load (List.replicate 3 0xAA) 0xFFE s0 = .error .romLoadError := by decide

/-! ### Witnesses: the hypotheses of the statements can be met -/

theorem witness_StepRunsDecodedInstruction :
    let s := s0.withFetchWord 16 0x6A7B
    s.rs = .running ∧ decode s.fetchWord = .ok (.ldImm 10 0x7B) := by decide

-- at the top of memory, where the second byte wraps
theorem witness_FetchIsBigEndianAndWraps : ({ s0 with pc := 0xFFF }).pc.toNat < 4096 := by decide

theorem witness_StepReportsUnknownWord :
    let s := s0.withFetchWord 16 0x9121
    s.rs = .running ∧ decode s.fetchWord = .error .unknownGroup9 := by decide

theorem witness_StepWhileWaitingChangesNothing : waiting.rs = .waitingForKey 3 := by decide

theorem witness_StepWhileFaultedReportsTheCause : faulted.rs = .faulted .stackOverflow := by decide

theorem witness_DecodeInvertsEncode : WellFormed (.sys 0x0E1) = true ∧ WellFormed (.drw 15 15 15) = true := by decide

theorem witness_EncodeInvertsDecode : decode 0x00EE = .ok .ret ∧ decode 0x00EF = .ok (.sys 0x0EF) := by decide

-- each clause, the unknown words next to known ones
theorem witness_UnknownWordsAreThoseListed :
    decode 0x5001 = .error .unknownGroup5 ∧ decode 0x8008 = .error .unknownGroup8 ∧
    decode 0x800D = .error .unknownGroup8 ∧ decode 0x800F = .error .unknownGroup8 ∧
    decode 0x9001 = .error .unknownGroup9 ∧ decode 0xE09D = .error .unknownGroupE ∧
    decode 0xE0A2 = .error .unknownGroupE ∧ decode 0xF066 = .error .unknownGroupF ∧
    decode 0x800E = .ok (.shl 0 0) ∧ decode 0x5000 = .ok (.seReg 0 0) := by decide

-- a word of the 0NNN row, and CLS, which matches the row but is left out of it
theorem witness_OpcodeMapHasOneRowPerKnownWord :
    decode 0x0FFF = .ok (.sys 0xFFF) ∧ (0x0FFF : Word) &&& (opcodeRow (.sys 0)).mask = (opcodeRow (.sys 0)).bits ∧
    (0x00E0 : Word) &&& (opcodeRow (.sys 0)).mask = (opcodeRow (.sys 0)).bits ∧
    opcodeRow .cls ≠ opcodeRow (.sys 0) := by decide

theorem witness_GroupZeroWords : (0x0FFF : Word).toNat < 0x1000 ∧ (0x00E0 : Word).toNat < 0x1000 ∧
    (0x00E1 : Word) ≠ 0x00E0 ∧ (0x00E1 : Word) ≠ 0x00EE := by decide

-- both ends of the range of SP
theorem witness_ReturnPopsIntoPc :
    0 < full.sp.val ∧ (15 : Fin 16).val + 1 = full.sp.val ∧ (full.stack[(15 : Fin 16)]).toNat < 4096 ∧
    0 < ({ s0 with sp := 1 }).sp.val ∧ (0 : Fin 16).val + 1 = ({ s0 with sp := 1 }).sp.val := by decide

theorem witness_CallPushesReturnAddress : s0.sp.val < 16 ∧ ({ s0 with sp := 15 }).sp.val < 16 := by decide

-- each skip, taken and not taken
theorem witness_SkipsCompareRegisters :
    let s := s2 3 9 4 9
    (s.getV 3).toNat = (0x09 : Byte).toNat ∧ (s.getV 3).toNat ≠ (0x08 : Byte).toNat ∧
    (s.getV 3).toNat = (s.getV 4).toNat ∧ (s.getV 3).toNat ≠ (s.getV 5).toNat := by decide

theorem witness_SkipsTestTheMaskedKey :
    let s := (s1 0 0x13).setKey 3 true
    (3 : Nibble).toNat = (s.getV 0).toNat % 16 ∧ s.getKey 3 = true ∧
    (0 : Nibble).toNat = (s.getV 1).toNat % 16 ∧ s.getKey 0 = false := by decide

theorem witness_FatalStackFaultIsPrecise :
    full.cfg.stackPolicy = .fatal ∧ full.sp.val = 16 ∧ s0.cfg.stackPolicy = .fatal ∧ s0.sp.val = 0 := by decide

theorem witness_SaturatedStackConditionIsNoOp :
    fullSat.cfg.stackPolicy = .saturate ∧ fullSat.sp.val = 16 ∧
    ({ s0 with cfg := saturating }).cfg.stackPolicy = .saturate ∧ ({ s0 with cfg := saturating }).sp.val = 0 := by
  decide

-- X = F and X other than F
theorem witness_flag_destinations : (0 : Nibble) ≠ 15 ∧ (255 < ((s2 0 0xFF 1 1).getV 0).toNat + ((s2 0 0xFF 1 1).getV 1).toNat) ∧
    ¬255 < ((s2 0 0xFE 1 1).getV 0).toNat + ((s2 0 0xFE 1 1).getV 1).toNat ∧
    ((s2 0 5 1 6).getV 0).toNat < ((s2 0 5 1 6).getV 1).toNat := by decide

theorem witness_RandomByteUnderMask : (0x00 : Byte) = 0 := by decide

theorem witness_EffectiveAddressWraps :
    let s := s0.setI 0xFFF
    15 < 16 ∧ s.addrI 15 = s.addrI 15 ∧ (s.addrI 1).toNat = 0 := by decide

-- the last register stored, and an address outside the sixteen
theorem witness_StoreRegistersFromIndex :
    let s := s0.setI 0xFFE
    (2 : Nibble).toNat ≤ (2 : Nibble).toNat ∧ s.addrI 2 = 0x000 ∧
    (∀ k : Fin 3, (0x001 : Addr) ≠ s.addrI k.val) := by decide

theorem witness_LoadRegistersFromIndex : (2 : Nibble).toNat ≤ (2 : Nibble).toNat ∧
    ¬(3 : Nibble).toNat ≤ (2 : Nibble).toNat := by decide

theorem witness_FetchSeesTheStoreBefore :
    let s := s0.setI 0x202
    s.i.toNat % 4096 = (s.pc.toNat + 2) % 4096 ∧ 1 ≤ (1 : Nibble).toNat ∧
    (∃ t, exec (.ldMemX 1) s = .next t) ∧ (∃ t, exec (.ldBX 1) s = .next t) :=
  ⟨by decide, by decide, ⟨_, rfl⟩, ⟨_, rfl⟩⟩

theorem witness_FontGlyphIsWhereIndexPoints :
    let s := (s1 0 0x0F).withFetchWord 16 0xF029
    s.readMem 0x200 = 0xF0 ∧ decode s.fetchWord = .ok (.ldFX 0) ∧ (s.getV 0).toNat < 16 ∧
    (∀ (j : Nat) (_ : j < 80), s.readMem (BitVec.ofNat 12 (s.cfg.fontBase.toNat + j)) = s.cfg.fontData[j]) := by
  decide

theorem witness_DrawIsExclusiveOr : 63 < 64 ∧ 31 < 32 ∧
    (let s := at300 (s2 1 63 2 31) 0xFF
     spriteCovers s 63 31 1 63 31 = true ∧ spriteCovers s 63 31 1 6 31 = true ∧ spriteCovers s 63 31 1 7 31 = false) := by
  decide

theorem witness_DrawTwiceRestoresTheDisplay :
    (1 : Nibble) ≠ 15 ∧ (2 : Nibble) ≠ 15 ∧
    ∃ t u, exec (.drw 1 2 1) (at300 (s2 1 63 2 31) 0xFF) = .next t ∧ exec (.drw 1 2 1) t = .next u :=
  ⟨by decide, by decide, _, _, rfl, rfl⟩

-- log 19: where every pixel under the sprite was lit, the second draw clears none, so VF is 0
theorem test_second_draw_without_collision :
    let s := { at300 s0 0x80 with disp := Display.setPixel s0.disp (pixelIndex 0 0) true }
    onNext (exec (.drw 0 1 1) s) (fun t => t.getV 15 == 1 && onNext (exec (.drw 0 1 1) t)
      (fun u => u.getV 15 == 0 && u.disp == s.disp)) = true := by decide +kernel

-- each clause of FX18: a start, and a write that is none
theorem witness_TimerWritesAndKeyWait :
    (s1 0 1).st = 0 ∧ (s1 0 1).getV 0 ≠ 0 ∧ ¬(s0.st = 0 ∧ s0.getV 0 ≠ 0) := by decide

theorem witness_KeyDelivery :
    0 < 16 ∧ 15 < 16 ∧ waiting.rs = .waitingForKey 3 ∧ (∀ x : Nibble, s0.rs ≠ .waitingForKey x) :=
  ⟨by decide, by decide, rfl, fun _ h => RunState.noConfusion h⟩

theorem witness_OnlyTheFirstPressResolves :
    waiting.rs = .waitingForKey 3 ∧ 15 < 16 ∧ LegalEvents [⟨7, false⟩] ∧
    (∀ e ∈ [(⟨7, false⟩ : KeyEvent)], e.pressed = false) ∧ LegalEvents [⟨9, true⟩] :=
  ⟨rfl, by decide, by unfold LegalEvents; decide, by decide, by unfold LegalEvents; decide⟩

-- each clause on its boundary
theorem witness_HostDutiesAreRefused :
    16 ≤ 16 ∧ 3584 < (List.replicate 3585 (0 : Byte)).length ∧ (List.replicate 3584 (0 : Byte)).length ≤ 3584 :=
  ⟨by decide, by rw [List.length_replicate]; decide, by rw [List.length_replicate]⟩

-- R453: the last base it allows is 0x1B0, whose font ends just below the ROM, and a boot load leaves that font alone
theorem test_font_base_bound :
    ({ defaultConfig with fontBase := 0x1B0, fontBelowRom := by decide } : Config).fontBase.toNat + 79 = 0x1FF ∧
    ∀ cfg : Config, cfg.fontBase ≠ 0x1B1 :=
  ⟨by decide, fun cfg h => absurd cfg.fontBelowRom (by rw [h]; decide)⟩

theorem test_boot_load_leaves_last_font :
    (match sessionLoad [0x12, 0x34] (Session.start { defaultConfig with fontBase := 0x1B0, fontBelowRom := by decide }) with
      | .next z => z.core.readMem 0x1FF == 0x80 && z.core.readMem 0x200 == 0x12
      | .fault _ => false
      | .refused _ => false) = true := by decide

-- the tone on with ST = 30, and off with ST = 0
theorem witness_SoundStopsOnceAtZero :
    (let s := { s0 with st := 30, tone := true }
     s.sndStart = false ∧ (s.tone = true ↔ s.st ≠ 0)) ∧ s0.sndStart = false ∧ (s0.tone = true ↔ s0.st ≠ 0) := by
  decide

theorem witness_SoundStartsAtTheNextTick :
    (s1 0 1).st = 0 ∧ (s1 0 1).getV 0 ≠ 0 ∧ (s1 0 1).getV 0 = 1 ∧ ∃ t, exec (.ldStX 0) (s1 0 1) = .next t :=
  ⟨by decide, by decide, by decide, _, rfl⟩

-- a load that ends at 0xFFF, and one a byte longer
theorem witness_LoadPlacesTheBytes :
    (0xFFE : Addr).toNat + [0xAA, (0xBB : Byte)].length ≤ 4096 ∧
    4096 < (0xFFE : Addr).toNat + [0xAA, 0xBB, (0xCC : Byte)].length := by decide

-- a frame without a fault, and one whose step meets a full stack
theorem witness_FrameRunsInOrder :
    s0.NotFaulted ∧ full.NotFaulted ∧ LegalEvents [⟨15, true⟩] ∧ (∃ t, step (full.withFetchWord 16 0x2300) = .next t ∧
      t.rs = .faulted .stackOverflow) :=
  ⟨fun _ h => RunState.noConfusion h, fun _ h => RunState.noConfusion h, by unfold LegalEvents; decide, _, rfl, rfl⟩

theorem witness_FramesKeepTheRateExactly :
    let s := { s0 with cfg := { defaultConfig with rate := 0 } }
    ∃ t os, runFrames (List.replicate 60 []) s = .next (t, os) ∧ (∀ o ∈ os, o.fault = none) ∧
      (List.replicate 60 ([] : List KeyEvent)).length = 60 :=
  ⟨_, _, rfl, by decide +kernel, rfl⟩

theorem witness_FaultEndsTheFramesSilently :
    faulted.rs = .faulted .stackOverflow ∧ (tickTimers { faulted with st := 40, tone := true }).1.tone = true := by
  decide

theorem witness_FaultedIsTerminal :
    faulted.rs = .faulted .stackOverflow ∧ (∃ t, applyOp .step faulted = .next t) ∧
    (∃ t, applyOp (.load [0xAA] 0x200) faulted = .next t) ∧ (∃ t, applyOp (.deliverKey 15 true) faulted = .next t) :=
  ⟨rfl, ⟨_, rfl⟩, ⟨_, rfl⟩, ⟨_, rfl⟩⟩

theorem witness_ResetLeaves :
    79 < 80 ∧ (0x04F : Addr).toNat < defaultConfig.fontBase.toNat ∧
    defaultConfig.fontBase.toNat + 80 ≤ (0x0A0 : Addr).toNat := by decide

-- a stopped core and a waiting one, both in the invariants, and an operation on each
theorem witness_StepKeepsTheInvariant : faulted.Inv ∧ ∃ t, step faulted = .next t := by
  refine ⟨⟨⟨by decide, by decide, by decide, by decide⟩, rfl, fun c h => ?_⟩, _, rfl⟩
  injection h with h
  subst h
  exact ⟨rfl, rfl, .inl ⟨rfl, rfl⟩⟩

theorem witness_EveryOperationKeepsTheInvariant :
    faulted.Inv ∧ (∃ t, applyOp .tickTimers faulted = .next t) ∧ (∃ t, applyOp (.frame []) faulted = .next t) ∧
    (∃ t, applyOp (.load [0xAA] 0xFFF) faulted = .next t) :=
  ⟨witness_StepKeepsTheInvariant.1, ⟨_, rfl⟩, ⟨_, rfl⟩, ⟨_, rfl⟩⟩

theorem witness_WaitingAndFaultedCoreHoldsItsInstruction :
    (∀ (bytes : List Byte) (offset : Addr), HostOp.deliverKey 7 false ≠ .load bytes offset) ∧
    (waiting.writeMem 0x200 0xF3 |>.writeMem 0x201 0x0A).HoldsItsInstruction ∧
    ∃ t, applyOp (.deliverKey 7 false) (waiting.writeMem 0x200 0xF3 |>.writeMem 0x201 0x0A) = .next t := by
  refine ⟨fun _ _ h => HostOp.noConfusion h, ⟨fun x h => ?_, fun h => RunState.noConfusion h,
    fun h => RunState.noConfusion h⟩, _, rfl⟩
  injection h with h
  subst h
  decide

-- a loading, a storing, a calling and a waiting instruction, for the statements about every instruction
theorem witness_every_instruction :
    (∃ t, exec (.ldXMem 15) s0 = .next t) ∧ (∃ t, exec (.ldMemX 15) s0 = .next t) ∧
    (∃ t, exec (.call 0x300) full = .next t) ∧ (∃ t, exec (.ldXK 3) s0 = .next t) ∧ s0.rs = .running :=
  ⟨⟨_, rfl⟩, ⟨_, rfl⟩, ⟨_, rfl⟩, ⟨_, rfl⟩, rfl⟩

theorem witness_StepTouchesKeysTimersAndRedrawAsListed :
    let s := { s0.withFetchWord 16 0x00E0 with redraw := true }
    (∃ t, step s = .next t) ∧ s.redraw = true ∧ decode s.fetchWord = .ok .cls ∧
    (∀ x : Nibble, (.ok .cls : Except Reject Instr) ≠ .ok (.skp x) ∧ (.ok .cls : Except Reject Instr) ≠ .ok (.sknp x)) :=
  ⟨⟨_, rfl⟩, rfl, by decide, fun _ => And.intro (by simp) (by simp)⟩

end Sys2Proof.Tests
end

section
/-! Where every instruction leaves `PC` (spec/10_state.md rule R37): one law for each way an instruction writes it, and
the case split over the instructions that puts them together. -/

namespace Sys2Proof.Machine

/-- The default update after any work that leaves `PC` alone (R158). -/
theorem State.advance_pc_toNat_of_pc_eq {s u : State} (h : u.pc = s.pc) :
    u.advance.pc.toNat = (s.pc.toNat + 2) % 4096 :=
  h ▸ u.advance_pcMoves

theorem State.stackCondition_pc_toNat (s : State) (c : Cause) :
    (s.stackCondition c).pc.toNat = stackConditionTarget s := by
  unfold stackConditionTarget
  cases hp : s.cfg.stackPolicy with
  | fatal => rw [s.stackCondition_fatal c hp]; rfl
  | saturate =>
    rw [s.stackCondition_saturate c hp]
    exact State.advance_pc_toNat_of_pc_eq rfl

theorem State.callTo_pc_toNat (s : State) (nnn : Addr) : (s.callTo nnn).pc.toNat = pcAfter s (.call nnn) := by
  by_cases h : s.sp.val = 16
  · rw [s.callTo_of_full nnn h, State.stackCondition_pc_toNat, pcAfter, if_pos h]
  · have hlt : s.sp.val < 16 := by have := s.sp.isLt; omega
    rw [s.callTo_of_lt nnn hlt, pcAfter, if_neg h]
    exact addr_setWidth_toNat nnn

theorem State.returnFromCall_pc_toNat (s : State) : s.returnFromCall.pc.toNat = pcAfter s .ret := by
  by_cases h : s.sp.val = 0
  · rw [s.returnFromCall_of_empty h, State.stackCondition_pc_toNat, pcAfter, dif_pos h]
  · rw [s.returnFromCall_of_pos (Nat.pos_of_ne_zero h), pcAfter, dif_neg h]
    exact (addr_setWidth_toNat _).trans (mask12_toNat _)

/-- The sum of BNNN does not overflow 16 bits, so only `mask12` wraps it (R189, decision D33). -/
theorem mask12_addr_add_byte_toNat (a : Addr) (b : Byte) :
    (mask12 (a.setWidth 16 + zext16 b)).toNat = (a.toNat + b.toNat) % 4096 := by
  rw [mask12_toNat, BitVec.toNat_add, addr_setWidth_toNat, zext16_toNat]
  omega

/-- The key EX9E and EXA1 test is `V[X] mod 16` (decision D16). -/
theorem keyIndex_eq_ofNat_mod (b : Byte) : keyIndex b = BitVec.ofNat 4 (b.toNat % 16) :=
  BitVec.eq_of_toNat_eq (by simp [keyIndex])

theorem State.storeRegs_pc (s : State) (x : Nibble) : (s.storeRegs x).pc = s.pc := by
  obtain ⟨m, hm⟩ := s.storeRegs_eq x
  rw [hm]

theorem State.loadRegs_pc (s : State) (x : Nibble) : (s.loadRegs x).pc = s.pc := by
  obtain ⟨v, hv⟩ := s.loadRegs_eq x
  rw [hv]

/-- Settles O57: each instruction writes `PC` by one of the laws above; those that neither jump, skip, call, return nor
wait advance it by 2 after work that leaves it alone. -/
theorem everyInstructionMovesPcAsListed : Obligations.EveryInstructionMovesPcAsListed := by
  intro i s t h
  cases i with
  | jp nnn => cases h; exact s.setPc_pc_toNat nnn
  | jpV0 nnn => cases h; exact (s.setPc_pc_toNat _).trans (mask12_addr_add_byte_toNat nnn _)
  | call nnn => cases h; exact s.callTo_pc_toNat nnn
  | ret => cases h; exact s.returnFromCall_pc_toNat
  | seImm | sneImm | seReg | sneReg => cases h; exact s.skipIf_pc_toNat _
  | skp | sknp => cases h; rw [State.skipIf_pc_toNat, keyIndex_eq_ofNat_mod]; rfl
  | ldXK => cases h; rfl
  | ldMemX x => cases h; exact State.advance_pc_toNat_of_pc_eq (s.storeRegs_pc x)
  | ldXMem x => cases h; exact State.advance_pc_toNat_of_pc_eq (s.loadRegs_pc x)
  | _ => cases h; exact State.advance_pc_toNat_of_pc_eq rfl

end Sys2Proof.Machine
end

section
/-! Memory as the instructions see it (spec/20_memory.md): the addresses a fetch and a store use, the bytes an
instruction leaves alone, and a fetch right behind a store. -/

namespace Sys2Proof.Machine

/-! ### Addresses -/

/-- Settles O27: `mask12` keeps 12 bits of the sum, so offsets closer than 4096 stay apart. -/
theorem effectiveAddressWraps : Obligations.EffectiveAddressWraps := fun s _ k =>
  ⟨s.addrI_toNat k, fun hj hk h => s.addrI_inj (by omega) (by omega) h⟩

theorem State.pcPlus_eq_ofNat (s : State) (k : Word) :
    s.pcPlus k = BitVec.ofNat 12 ((s.pc.toNat + k.toNat) % 4096) :=
  BitVec.eq_of_toNat_eq (by rw [State.pcPlus_toNat, BitVec.toNat_ofNat]; omega)

/-- Settles O2: the two bytes of a fetch are read at `PC` and `PC + 1` modulo 4096, and concatenated high byte first. -/
theorem fetchIsBigEndianAndWraps : Obligations.FetchIsBigEndianAndWraps := by
  intro s hpc
  have h0 : s.pcPlus 0 = BitVec.ofNat 12 s.pc.toNat :=
    (s.pcPlus_eq_ofNat 0).trans (congrArg _ (Nat.mod_eq_of_lt hpc))
  have h1 : s.pcPlus 1 = BitVec.ofNat 12 ((s.pc.toNat + 1) % 4096) := s.pcPlus_eq_ofNat 1
  rw [State.fetchWord, wordOfBytes_toNat, h0, h1]

/-! ### What a store leaves alone -/

theorem State.stackCondition_readMem (s : State) (c : Cause) (a : Addr) :
    (s.stackCondition c).readMem a = s.readMem a := by
  cases hp : s.cfg.stackPolicy with
  | fatal => rw [s.stackCondition_fatal c hp]; rfl
  | saturate => rw [s.stackCondition_saturate c hp]; rfl

theorem State.callTo_readMem (s : State) (nnn a : Addr) : (s.callTo nnn).readMem a = s.readMem a := by
  by_cases h : s.sp.val < 16
  · rw [s.callTo_of_lt nnn h]; rfl
  · rw [s.callTo_of_full nnn (by omega), State.stackCondition_readMem]

theorem State.returnFromCall_readMem (s : State) (a : Addr) : s.returnFromCall.readMem a = s.readMem a := by
  by_cases h : 0 < s.sp.val
  · rw [s.returnFromCall_of_pos h]; rfl
  · rw [s.returnFromCall_of_empty (by omega), State.stackCondition_readMem]

theorem State.loadRegs_readMem (s : State) (x : Nibble) (a : Addr) : (s.loadRegs x).readMem a = s.readMem a := by
  obtain ⟨v, hv⟩ := s.loadRegs_eq x
  rw [hv]; rfl

theorem State.storeRegs_memSameBut (s : State) (x : Nibble) :
    MemSameBut (storedAddrs s (.ldMemX x)) s (s.storeRegs x) := fun _ ha =>
  s.storeRegs_other x fun k hk e => ha (List.mem_map.2 ⟨k, List.mem_range.2 (Nat.lt_succ_of_le hk), e⟩)

theorem State.storeBcd_memSameBut (s : State) (x : Nibble) :
    MemSameBut (storedAddrs s (.ldBX x)) s (s.storeBcd (s.getV x)) := by
  intro a ha
  simp only [storedAddrs, List.mem_cons, List.not_mem_nil, or_false, not_or] at ha
  obtain ⟨h0, h1, h2⟩ := ha
  rw [State.storeBcd_readMem, if_neg (Ne.symm h2), if_neg (Ne.symm h1), if_neg (Ne.symm h0)]

/-- Settles O56: the two stores write at their listed addresses only; calls, returns and the register load write other
fields, by the laws above; every other instruction sets fields that a read of memory does not look at. -/
theorem onlyTheListedBytesAreWritten : Obligations.OnlyTheListedBytesAreWritten := by
  intro i s t h
  cases i with
  | ldMemX x => cases h; exact s.storeRegs_memSameBut x
  | ldBX x => cases h; exact s.storeBcd_memSameBut x
  | call nnn => cases h; exact fun a _ => s.callTo_readMem nnn a
  | ret => cases h; exact fun a _ => s.returnFromCall_readMem a
  | ldXMem x => cases h; exact fun a _ => s.loadRegs_readMem x a
  | _ => cases h; exact fun _ _ => rfl

/-! ### A fetch right behind a store -/

/-- When `I` addresses the word after the instruction, the next fetch reads at the first two addresses from `I`. -/
theorem State.advance_fetchWord_at_index {s u : State} (hpc : u.pc = s.pc)
    (h : s.i.toNat % 4096 = (s.pc.toNat + 2) % 4096) :
    u.advance.fetchWord = wordOfBytes (u.readMem (s.addrI 0)) (u.readMem (s.addrI 1)) := by
  have haddr : ∀ k : Word, u.advance.pcPlus k = s.addrI k.toNat := fun k => BitVec.eq_of_toNat_eq (by
    rw [State.pcPlus_toNat, State.addrI_toNat, State.advance_pc_toNat_of_pc_eq hpc]; omega)
  rw [State.fetchWord, haddr 0, haddr 1]
  rfl

theorem bcdHundreds_toNat (b : Byte) : (bcdHundreds b).toNat = b.toNat / 100 := by
  have := b.isLt
  rw [bcdHundreds, BitVec.toNat_ofNat]
  omega

theorem bcdTens_toNat (b : Byte) : (bcdTens b).toNat = b.toNat / 10 % 10 := by
  rw [bcdTens, BitVec.toNat_ofNat]
  omega

theorem State.storeBcd_hundreds (s : State) (b : Byte) : (s.storeBcd b).readMem (s.addrI 0) = bcdHundreds b := by
  have h2 : s.addrI 2 ≠ s.addrI 0 := fun e => absurd (s.addrI_inj (by omega) (by omega) e) (by omega)
  have h1 : s.addrI 1 ≠ s.addrI 0 := fun e => absurd (s.addrI_inj (by omega) (by omega) e) (by omega)
  rw [State.storeBcd_readMem, if_neg h2, if_neg h1, if_pos rfl]

theorem State.storeBcd_tens (s : State) (b : Byte) : (s.storeBcd b).readMem (s.addrI 1) = bcdTens b := by
  have h2 : s.addrI 2 ≠ s.addrI 1 := fun e => absurd (s.addrI_inj (by omega) (by omega) e) (by omega)
  rw [State.storeBcd_readMem, if_neg h2, if_pos rfl]

/-- Settles O32: both stores keep `PC`, so the next fetch reads at `I` and `I + 1`, where they put their first two
bytes. -/
theorem fetchSeesTheStoreBefore : Obligations.FetchSeesTheStoreBefore := by
  intro s t x hI
  refine ⟨fun h hx => ?_, fun h => ?_⟩
  · cases h
    rw [State.advance_fetchWord_at_index (s.storeRegs_pc x) hI, s.storeRegs_at x (Nat.zero_le _), s.storeRegs_at x hx]
    rfl
  · cases h
    have hpc : (s.storeBcd (s.getV x)).pc = s.pc := rfl
    rw [State.advance_fetchWord_at_index hpc hI, wordOfBytes_toNat, State.storeBcd_hundreds, State.storeBcd_tens,
      bcdHundreds_toNat, bcdTens_toNat]

end Sys2Proof.Machine
end

section
/-! The decoder and the encoder are inverse (spec/30_encoding.md rules R112 to R121), and a word matches the rows of the
opcode map by its fields. -/

namespace Sys2Proof

/-! ### The groups that subdivide -/

theorem decode_of_group0 {w : Word} (h : fieldGroup w = 0) :
    decode w = if w = 0x00E0 then .ok .cls else if w = 0x00EE then .ok .ret else .ok (.sys (fieldNNN w)) := by
  rw [decode, h]; rfl

theorem decode_of_group8 {w : Word} (h : fieldGroup w = 8) :
    decode w = decodeGroup8 (fieldX w) (fieldY w) (fieldN w) := by
  rw [decode, h]; rfl

theorem decode_of_groupE {w : Word} (h : fieldGroup w = 0xE) : decode w = decodeGroupE (fieldX w) (fieldNN w) := by
  rw [decode, h]; rfl

theorem decode_of_groupF {w : Word} (h : fieldGroup w = 0xF) : decode w = decodeGroupF (fieldX w) (fieldNN w) := by
  rw [decode, h]; rfl

theorem wordNNN_inj {g : Nibble} {a b : Addr} : wordNNN g a = wordNNN g b ↔ a = b :=
  ⟨fun h => by simpa using congrArg fieldNNN h, congrArg _⟩

/-- The hole in 0NNN is the two words of CLS and RET (R116). -/
theorem sysAddrOk_iff (nnn : Addr) :
    sysAddrOk nnn = true ↔ wordNNN 0 nnn ≠ 0x00E0 ∧ wordNNN 0 nnn ≠ 0x00EE := by
  have hcls : (0x00E0 : Word) = wordNNN 0 0x0E0 := rfl
  have hret : (0x00EE : Word) = wordNNN 0 0x0EE := rfl
  rw [hcls, hret, wordNNN_inj.ne, wordNNN_inj.ne, sysAddrOk, Bool.and_eq_true, bne_iff_ne, bne_iff_ne]
  rfl

/-! ### Decoding an encoded instruction -/

theorem decode_encode_sys {nnn : Addr} (h : sysAddrOk nnn = true) : decode (encode (.sys nnn)) = .ok (.sys nnn) := by
  obtain ⟨hcls, hret⟩ := (sysAddrOk_iff nnn).1 h
  rw [encode, decode_of_group0 (fieldGroup_wordNNN _ _), if_neg hcls, if_neg hret, fieldNNN_wordNNN]

/-- Each form of word gives its fields back; in groups 8, E and F the last field picks the instruction. -/
theorem decode_encode (i : Instr) (h : WellFormed i = true) : decode (encode i) = .ok i := by
  cases i with
  | cls | ret => rfl
  | sys nnn => exact decode_encode_sys h
  | jp | call | ldI | jpV0 => rw [encode, decode, fieldGroup_wordNNN, fieldNNN_wordNNN]; rfl
  | seImm | sneImm | ldImm | addImm | rnd =>
    rw [encode, decode, fieldGroup_wordXNN, fieldX_wordXNN, fieldNN_wordXNN]; rfl
  | seReg | sneReg | drw =>
    rw [encode, decode, fieldGroup_wordXYN, fieldX_wordXYN, fieldY_wordXYN, fieldN_wordXYN]; rfl
  | ldReg | orReg | andReg | xorReg | addReg | sub | shr | subn | shl =>
    rw [encode, decode_of_group8 (fieldGroup_wordXYN ..), fieldX_wordXYN, fieldY_wordXYN, fieldN_wordXYN]; rfl
  | skp | sknp => rw [encode, decode_of_groupE (fieldGroup_wordXNN ..), fieldX_wordXNN, fieldNN_wordXNN]; rfl
  | ldXDt | ldXK | ldDtX | ldStX | addIX | ldFX | ldBX | ldMemX | ldXMem =>
    rw [encode, decode_of_groupF (fieldGroup_wordXNN ..), fieldX_wordXNN, fieldNN_wordXNN]; rfl

theorem decodeBytes_encodeBytes {i : Instr} (h : WellFormed i = true) : decodeBytes (encodeBytes i) = .ok (i, []) := by
  simp only [encodeBytes, decodeBytes, wordOfBytes_bytes, decode_encode i h]

/-- Settles O8: the decoder reads back the fields that the encoder wrote, and a word back from its two bytes. -/
theorem decodeInvertsEncode : Obligations.DecodeInvertsEncode := fun i h =>
  ⟨decode_encode i h, decodeBytes_encodeBytes h⟩

/-! ### Encoding a decoded word -/

theorem encode_of_decodeGroup8 {x y n : Nibble} {i : Instr} (h : decodeGroup8 x y n = .ok i) :
    encode i = wordXYN 0x8 x y n := by
  unfold decodeGroup8 at h
  split at h <;> cases h <;> rfl

theorem encode_of_decodeGroupE {x : Nibble} {nn : Byte} {i : Instr} (h : decodeGroupE x nn = .ok i) :
    encode i = wordXNN 0xE x nn := by
  unfold decodeGroupE at h
  split at h <;> cases h <;> rfl

theorem encode_of_decodeGroupF {x : Nibble} {nn : Byte} {i : Instr} (h : decodeGroupF x nn = .ok i) :
    encode i = wordXNN 0xF x nn := by
  unfold decodeGroupF at h
  split at h <;> cases h <;> rfl

theorem wordNNN_of_fieldGroup {w : Word} {g : Nibble} (h : fieldGroup w = g) : wordNNN g (fieldNNN w) = w :=
  h ▸ word_eq_wordNNN w

theorem wordXNN_of_fieldGroup {w : Word} {g : Nibble} (h : fieldGroup w = g) :
    wordXNN g (fieldX w) (fieldNN w) = w :=
  h ▸ word_eq_wordXNN w

theorem wordXYN_of_fieldGroup {w : Word} {g : Nibble} (h : fieldGroup w = g) :
    wordXYN g (fieldX w) (fieldY w) (fieldN w) = w :=
  h ▸ word_eq_wordXYN w

/-- The instruction keeps every field of the word but those the decoder has compared with the encoder's constants. -/
theorem encode_of_decode {w : Word} {i : Instr} (h : decode w = .ok i) : encode i = w := by
  unfold decode at h
  dsimp only at h
  split at h
  case h_1 _ hg =>
    split at h
    next hw => cases h; exact hw.symm
    next =>
      split at h
      next hw => cases h; exact hw.symm
      next => cases h; exact wordNNN_of_fieldGroup hg
  case h_2 _ hg | h_3 _ hg | h_11 _ hg | h_12 _ hg => cases h; exact wordNNN_of_fieldGroup hg
  case h_4 _ hg | h_5 _ hg | h_7 _ hg | h_8 _ hg | h_13 _ hg => cases h; exact wordXNN_of_fieldGroup hg
  case h_6 _ hg | h_10 _ hg =>
    split at h
    next hn => cases h; exact (congrArg _ hn.symm).trans (wordXYN_of_fieldGroup hg)
    next => cases h
  case h_14 _ hg => cases h; exact wordXYN_of_fieldGroup hg
  case h_9 _ hg => exact (encode_of_decodeGroup8 h).trans (wordXYN_of_fieldGroup hg)
  case h_15 _ hg => exact (encode_of_decodeGroupE h).trans (wordXNN_of_fieldGroup hg)
  case h_16 =>
    -- the group is none of the fifteen above
    have hg : fieldGroup w = 0xF := by
      simp only [imp_false] at *
      bv_omega
    exact (encode_of_decodeGroupF h).trans (wordXNN_of_fieldGroup hg)

theorem wellFormed_of_decode {w : Word} {i : Instr} (h : decode w = .ok i) : WellFormed i = true := by
  cases i with
  | sys nnn =>
    have hw : w = wordNNN 0 nnn := (encode_of_decode h).symm
    refine (sysAddrOk_iff nnn).2 ⟨fun e => ?_, fun e => ?_⟩ <;>
    · rw [hw, e] at h
      cases h
  | _ => rfl

/-- Settles O9: the decoder drops no bit, and CLS and RET take the two words that 0NNN leaves out. -/
theorem encodeInvertsDecode : Obligations.EncodeInvertsDecode := fun _ _ h =>
  ⟨encode_of_decode h, wellFormed_of_decode h⟩

/-! ### The rows of the opcode map -/

/-- The laws of `Laws.EncodingRow`, one per instruction, put together. -/
theorem encode_and_mask (i : Instr) : encode i &&& (opcodeRow i).mask = (opcodeRow i).bits := by
  open Laws.EncodingRow in
  cases i
  exacts [cls, ret, sys _, jp _, call _, seImm _ _, sneImm _ _, seReg _ _, ldImm _ _, addImm _ _, ldReg _ _,
    orReg _ _, andReg _ _, xorReg _ _, addReg _ _, sub _ _, shr _ _, subn _ _, shl _ _, sneReg _ _, ldI _, jpV0 _,
    rnd _ _, drw _ _ _, skp _, sknp _, ldXDt _, ldXK _, ldDtX _, ldStX _, addIX _, ldFX _, ldBX _, ldMemX _, ldXMem _]

/-- A field that a mask covers is the field of the masked word; so for the fields N and NN below. -/
theorem fieldGroup_of_and {w m b : Word} (h : w &&& m = b) (hm : fieldGroup m = 0xF) :
    fieldGroup w = fieldGroup b := by
  have hand : fieldGroup (w &&& m) = fieldGroup w &&& fieldGroup m := BitVec.extractLsb'_and
  rw [← h, hand, hm]
  exact (nibble_and_ones _).symm

theorem fieldN_of_and {w m b : Word} (h : w &&& m = b) (hm : fieldN m = 0xF) : fieldN w = fieldN b := by
  have hand : fieldN (w &&& m) = fieldN w &&& fieldN m := BitVec.extractLsb'_and
  rw [← h, hand, hm]
  exact (nibble_and_ones _).symm

theorem fieldNN_of_and {w m b : Word} (h : w &&& m = b) (hm : fieldNN m = 0xFF) : fieldNN w = fieldNN b := by
  have hand : fieldNN (w &&& m) = fieldNN w &&& fieldNN m := BitVec.extractLsb'_and
  rw [← h, hand, hm]
  exact (byte_and_ones _).symm

/-- A word on a row decodes to that row's instruction, or it is one of the two words that 0NNN leaves out. -/
theorem decode_of_row {w : Word} {j : Instr} (h : w &&& (opcodeRow j).mask = (opcodeRow j).bits) :
    ∃ i : Instr, decode w = .ok i ∧
      (opcodeRow i = opcodeRow j ∨ (opcodeRow j = opcodeRow (.sys 0) ∧ (w = 0x00E0 ∨ w = 0x00EE))) := by
  cases j with dsimp only [opcodeRow] at h
  | cls | ret =>
    have hw : w = _ := BitVec.and_allOnes.symm.trans h
    subst hw
    exact ⟨_, rfl, .inl rfl⟩
  | sys nnn =>
    rw [decode_of_group0 (fieldGroup_of_and h rfl)]
    by_cases hcls : w = 0x00E0
    · exact ⟨_, if_pos hcls, .inr ⟨rfl, .inl hcls⟩⟩
    · by_cases hret : w = 0x00EE
      · exact ⟨_, (if_neg hcls).trans (if_pos hret), .inr ⟨rfl, .inr hret⟩⟩
      · exact ⟨_, (if_neg hcls).trans (if_neg hret), .inl rfl⟩
  | jp | call | seImm | sneImm | ldImm | addImm | ldI | jpV0 | rnd | drw =>
    rw [decode, fieldGroup_of_and h rfl]
    exact ⟨_, rfl, .inl rfl⟩
  | seReg | sneReg =>
    rw [decode, fieldGroup_of_and h rfl, fieldN_of_and h rfl]
    exact ⟨_, rfl, .inl rfl⟩
  | ldReg | orReg | andReg | xorReg | addReg | sub | shr | subn | shl =>
    rw [decode_of_group8 (fieldGroup_of_and h rfl), fieldN_of_and h rfl]
    exact ⟨_, rfl, .inl rfl⟩
  | skp | sknp =>
    rw [decode_of_groupE (fieldGroup_of_and h rfl), fieldNN_of_and h rfl]
    exact ⟨_, rfl, .inl rfl⟩
  | ldXDt | ldXK | ldDtX | ldStX | addIX | ldFX | ldBX | ldMemX | ldXMem =>
    rw [decode_of_groupF (fieldGroup_of_and h rfl), fieldNN_of_and h rfl]
    exact ⟨_, rfl, .inl rfl⟩

/-- Settles O11: a known word is the encoding of its instruction, which lies on that instruction's row; a word on a row
has the fields by which the decoder picks the row's instruction. -/
theorem opcodeMapHasOneRowPerKnownWord : Obligations.OpcodeMapHasOneRowPerKnownWord :=
  ⟨fun _ i h => encode_of_decode h ▸ encode_and_mask i, fun _ _ h => decode_of_row h⟩

/-- Settles O7, by evaluating the decoder on the twenty words. -/
theorem specWordsDecode : Obligations.SpecWordsDecode := by
  unfold Obligations.SpecWordsDecode
  decide

end Sys2Proof
end

section
/-! The frames of the shared updates, and what group 0 and the two shifts do (spec/30_encoding.md rule R116,
spec/42_alu.md rules R239, R241 and R244). -/

namespace Sys2Proof.Machine

/-! ### Frames of the shared updates -/

theorem State.advance_onlyChanges (s : State) : OnlyChanges [.pc] s s.advance := by
  intro p hp
  cases p with
  | pc => exact absurd (List.mem_singleton.2 rfl) hp
  | _ => simp [Part.Same]

theorem State.setV_onlyChanges (s : State) (x : Nibble) (b : Byte) : OnlyChanges [.regs] s (s.setV x b) := by
  intro p hp
  cases p with
  | regs => exact absurd (List.mem_singleton.2 rfl) hp
  | _ => simp [Part.Same]

theorem State.setResultFlag_onlyChanges (s : State) (x : Nibble) (r f : Byte) :
    OnlyChanges [.regs] s (s.setResultFlag x r f) :=
  (s.setV_onlyChanges x r).trans (State.setV_onlyChanges _ flagReg f)

/-! ### Group 0 -/

/-- Settles O12: a word below 0x1000 has group 0 and is its own NNN; 0NNN executes as the default `PC` update. -/
theorem groupZeroWords : Obligations.GroupZeroWords := by
  intro w hw
  have hg : fieldGroup w = 0 := BitVec.eq_of_toNat_eq (by rw [fieldGroup_toNat, Nat.div_eq_of_lt hw]; rfl)
  have hnnn : fieldNNN w = BitVec.ofNat 12 w.toNat :=
    BitVec.eq_of_toNat_eq (by rw [fieldNNN_toNat, BitVec.toNat_ofNat])
  exact ⟨hnnn ▸ decode_of_group0 hg, fun _ _ s => ⟨_, rfl, s.advance_pcMoves, s.advance_onlyChanges⟩⟩

/-! ### Result and flag -/

/-- An instruction that writes a result, then the flag, then advances (R244). -/
theorem setsRegisterAndFlag_of_exec {i : Instr} {s : State} {x : Nibble} {r f : Byte}
    (h : exec i s = .next (s.setResultFlag x r f).advance) : SetsRegisterAndFlag i s x r.toNat f.toNat := by
  refine ⟨_, h, fun hx => ?_, ?_, fun k hk => ?_, ?_, ?_⟩
  · exact congrArg _ (s.setResultFlag_result r f hx)
  · exact congrArg _ (s.setResultFlag_flag x r f)
  · rw [List.mem_pair, not_or] at hk
    obtain ⟨hkx, hkf⟩ := hk
    exact s.setResultFlag_other r f hkx hkf
  · exact (s.setResultFlag x r f).advance_pcMoves
  · exact ((s.setResultFlag_onlyChanges x r f).mono (by simp)).trans ((State.advance_onlyChanges _).mono (by simp))

theorem flagOf_toNat (c : Bool) : (flagOf c).toNat = c.toNat := by cases c <;> rfl

/-- A flag that copies a bit of a byte holds that binary digit. -/
theorem flagOf_getLsbD_toNat (a : Byte) (k : Nat) : (flagOf (a.getLsbD k)).toNat = a.toNat / 2 ^ k % 2 := by
  rw [flagOf_toNat, BitVec.getLsbD, Nat.toNat_testBit]

theorem lowBitFlag_toNat (a : Byte) : (lowBitFlag a).toNat = a.toNat % 2 :=
  (flagOf_getLsbD_toNat a 0).trans (by rw [pow_zero, Nat.div_one])

theorem highBitFlag_toNat (a : Byte) : (highBitFlag a).toNat = a.toNat / 128 :=
  (flagOf_getLsbD_toNat a 7).trans (Nat.mod_eq_of_lt (by have := a.isLt; omega))

/-- Settles O25: halving and doubling modulo 256 are the shifts by one, and the flags are the bits they lose. -/
theorem shiftsSetTheLostBit : Obligations.ShiftsSetTheLostBit := by
  intro s x y
  have hr (a : Byte) : (a >>> 1).toNat = a.toNat / 2 := by simp [Nat.shiftRight_eq_div_pow]
  have hl (a : Byte) : (a <<< 1).toNat = a.toNat * 2 % 256 := by simp [Nat.shiftLeft_eq]
  rw [← hr, ← hl, ← lowBitFlag_toNat, ← highBitFlag_toNat]
  exact ⟨setsRegisterAndFlag_of_exec rfl, setsRegisterAndFlag_of_exec rfl⟩

end Sys2Proof.Machine
end

section
/-! The step engine (spec/40_step_engine.md): what a step is in each run state, the key skips of EX9E and EXA1, and the
parts that a step neither reads nor changes (rule R161). -/

namespace Sys2Proof.Machine

/-! ### The step in each run state -/

theorem step_of_decode_ok {s : State} {i : Instr} (hr : s.rs = .running) (hd : decode s.fetchWord = .ok i) :
    step s = exec i (s.setOut StepOut.none) := by
  simp only [step, hr, State.setOut_fetchWord, hd]

theorem step_of_decode_error {s : State} {r : Reject} (hr : s.rs = .running) (hd : decode s.fetchWord = .error r) :
    step s = .next (s.setOut StepOut.none).reportUnknown := by
  simp only [step, hr, State.setOut_fetchWord, hd]

theorem step_of_waitingForKey {s : State} {x : Nibble} (hr : s.rs = .waitingForKey x) :
    step s = .next (s.setOut StepOut.none) := by
  simp only [step, hr]

theorem step_of_faulted {s : State} {c : Cause} (hr : s.rs = .faulted c) :
    step s = .next (s.setOut ⟨false, some c⟩) := by
  simp only [step, hr]

/-- Settles O1: the law of the step in `Running` at a known word. -/
theorem stepRunsDecodedInstruction : Obligations.StepRunsDecodedInstruction := fun _ _ => step_of_decode_ok

/-- Settles O4: the law of the step while waiting. -/
theorem stepWhileWaitingChangesNothing : Obligations.StepWhileWaitingChangesNothing := fun _ _ =>
  step_of_waitingForKey

/-- Settles O5: the law of the step while `Faulted`. -/
theorem stepWhileFaultedReportsTheCause : Obligations.StepWhileFaultedReportsTheCause := fun _ _ => step_of_faulted

/-! ### Frames of the shared operations -/

theorem State.setPc_onlyChanges (s : State) (a : Addr) : OnlyChanges [.pc] s (s.setPc a) := by
  intro p hp
  cases p with
  | pc => exact absurd (List.mem_singleton.2 rfl) hp
  | _ => simp [Part.Same]

theorem State.setOut_onlyChanges (s : State) (o : StepOut) : OnlyChanges [.out] s (s.setOut o) := by
  intro p hp
  cases p with
  | out => exact absurd (List.mem_singleton.2 rfl) hp
  | _ => simp [Part.Same]

theorem State.fatal_onlyChanges (s : State) (c : Cause) : OnlyChanges [.faultPc, .rs, .out] s (s.fatal c) := by
  intro p hp
  cases p with
  | faultPc | rs | out => exact absurd (by decide) hp
  | _ => simp [Part.Same, State.fatal, State.readMem, State.getV, State.getKey]

/-- A step output and the default update: a saturated stack condition (R385), the report of an unknown word (R157). -/
theorem State.setOut_advance_onlyChanges (s : State) (o : StepOut) : OnlyChanges [.pc, .out] s (s.setOut o).advance :=
  ((s.setOut_onlyChanges o).mono (by decide)).trans ((State.advance_onlyChanges _).mono (by decide))

theorem State.stackCondition_onlyChanges (s : State) (c : Cause) :
    OnlyChanges [.pc, .faultPc, .rs, .out] s (s.stackCondition c) := by
  cases hp : s.cfg.stackPolicy with
  | fatal => rw [s.stackCondition_fatal c hp]; exact (s.fatal_onlyChanges c).mono (by decide)
  | saturate => rw [s.stackCondition_saturate c hp]; exact (s.setOut_advance_onlyChanges _).mono (by decide)

theorem State.callTo_onlyChanges (s : State) (nnn : Addr) :
    OnlyChanges [.stack, .sp, .pc, .faultPc, .rs, .out] s (s.callTo nnn) := by
  by_cases h : s.sp.val < 16
  · rw [s.callTo_of_lt nnn h]
    intro p hp
    cases p with
    | stack | sp | pc => exact absurd (by decide) hp
    | _ => simp [Part.Same, State.readMem, State.getV, State.getKey]
  · rw [s.callTo_of_full nnn (by omega)]
    exact (s.stackCondition_onlyChanges _).mono (by decide)

theorem State.returnFromCall_onlyChanges (s : State) :
    OnlyChanges [.sp, .pc, .faultPc, .rs, .out] s s.returnFromCall := by
  by_cases h : 0 < s.sp.val
  · rw [s.returnFromCall_of_pos h]
    intro p hp
    cases p with
    | sp | pc => exact absurd (by decide) hp
    | _ => simp [Part.Same, State.readMem, State.getV, State.getKey]
  · rw [s.returnFromCall_of_empty (by omega)]
    exact (s.stackCondition_onlyChanges _).mono (by decide)

theorem State.storeRegs_onlyChanges (s : State) (x : Nibble) : OnlyChanges [.mem] s (s.storeRegs x) := by
  obtain ⟨m, hm⟩ := s.storeRegs_eq x
  rw [hm]
  intro p hp
  cases p with
  | mem => exact absurd (List.mem_singleton.2 rfl) hp
  | _ => simp [Part.Same, State.getV, State.getKey]

theorem State.loadRegs_onlyChanges (s : State) (x : Nibble) : OnlyChanges [.regs] s (s.loadRegs x) := by
  obtain ⟨v, hv⟩ := s.loadRegs_eq x
  rw [hv]
  intro p hp
  cases p with
  | regs => exact absurd (List.mem_singleton.2 rfl) hp
  | _ => simp [Part.Same, State.readMem, State.getKey]

/-- Settles O3: the report of an unknown word advances `PC` and sets one output; the step has cleared the others. -/
theorem stepReportsUnknownWord : Obligations.StepReportsUnknownWord := fun s _ hr hd =>
  ⟨_, step_of_decode_error hr hd, State.advance_pc_toNat_of_pc_eq rfl, rfl, rfl,
    ((s.setOut_onlyChanges _).mono (by decide)).trans (State.setOut_advance_onlyChanges _ _)⟩

/-! ### Skips -/

/-- An instruction whose whole work is a skip on the condition `c` (R158). -/
theorem skipsWhen_of_exec {i : Instr} {s : State} {c : Bool} {p : Prop} (h : exec i s = .next (s.skipIf c))
    (hc : c = true ↔ p) : SkipsWhen i s p := by
  have hpc : (s.skipIf c).pc.toNat = skipTarget s c := s.skipIf_pc_toNat c
  refine ⟨_, h, fun hp => ?_, fun hp => ?_, s.setPc_onlyChanges _⟩
  · rw [hc.2 hp] at hpc ⊢
    exact hpc
  · rw [Bool.eq_false_iff.2 (hp ∘ hc.1)] at hpc ⊢
    exact hpc

/-- Settles O18: both instructions are skips on the key of index `V[X] mod 16`. -/
theorem skipsTestTheMaskedKey : Obligations.SkipsTestTheMaskedKey := by
  intro s x k hk
  have hkey : keyIndex (s.getV x) = k := by
    rw [keyIndex_eq_ofNat_mod, ← hk, BitVec.ofNat_toNat, BitVec.setWidth_eq]
  subst hkey
  exact ⟨skipsWhen_of_exec rfl Iff.rfl, skipsWhen_of_exec rfl (Bool.not_eq_true' _).to_iff⟩

/-! ### The timers -/

/-- FX15 alone writes `DT` and FX18 alone `ST`: every other instruction sets other fields. -/
theorem exec_keeps_timers {i : Instr} {s t : State} (h : exec i s = .next t) :
    ((∀ x, i ≠ .ldDtX x) → t.dt = s.dt) ∧ ((∀ x, i ≠ .ldStX x) → t.st = s.st) := by
  cases i with
  | ldDtX x => cases h; exact ⟨fun hx => absurd rfl (hx x), fun _ => rfl⟩
  | ldStX x => cases h; exact ⟨fun _ => rfl, fun hx => absurd rfl (hx x)⟩
  | call nnn =>
    cases h
    exact ⟨fun _ => s.callTo_onlyChanges nnn .dt (by decide), fun _ => s.callTo_onlyChanges nnn .st (by decide)⟩
  | ret =>
    cases h
    exact ⟨fun _ => s.returnFromCall_onlyChanges .dt (by decide),
      fun _ => s.returnFromCall_onlyChanges .st (by decide)⟩
  | ldMemX x =>
    cases h
    exact ⟨fun _ => s.storeRegs_onlyChanges x .dt (by decide), fun _ => s.storeRegs_onlyChanges x .st (by decide)⟩
  | ldXMem x =>
    cases h
    exact ⟨fun _ => s.loadRegs_onlyChanges x .dt (by decide), fun _ => s.loadRegs_onlyChanges x .st (by decide)⟩
  | _ => cases h; exact ⟨fun _ => rfl, fun _ => rfl⟩

theorem step_keeps_timers {s t : State} (h : step s = .next t) :
    ((∀ x, decode s.fetchWord ≠ .ok (.ldDtX x)) → t.dt = s.dt) ∧
      ((∀ x, decode s.fetchWord ≠ .ok (.ldStX x)) → t.st = s.st) := by
  obtain ⟨-, i, hi, he⟩ | ⟨-, -, rfl⟩ | ⟨-, rfl⟩ | ⟨c, -, rfl⟩ := step_cases h
  · obtain ⟨hdt, hst⟩ := exec_keeps_timers he
    rw [hi]
    exact ⟨fun hx => hdt fun x e => hx x (congrArg _ e), fun hx => hst fun x e => hx x (congrArg _ e)⟩
  · exact ⟨fun _ => rfl, fun _ => rfl⟩
  · exact ⟨fun _ => rfl, fun _ => rfl⟩
  · exact ⟨fun _ => rfl, fun _ => rfl⟩

/-! ### The keys and `REDRAW` -/

/-- The state with other keys and another `REDRAW`. -/
def State.withKeysAndRedraw (s : State) (key : Vector Bool 16) (r : Bool) : State :=
  { s with key := key, redraw := r }

/-- The instructions that set `REDRAW` (R46): 00E0 and DXYN. -/
def requestsRedraw : Instr → Bool
  | .cls | .drw _ _ _ => true
  | _ => false

section
variable (s : State) (key : Vector Bool 16) (r : Bool)

theorem State.stackCondition_withKeysAndRedraw (c : Cause) :
    (s.withKeysAndRedraw key r).stackCondition c = (s.stackCondition c).withKeysAndRedraw key r := by
  cases hp : s.cfg.stackPolicy with
  | fatal => rw [s.stackCondition_fatal c hp, (s.withKeysAndRedraw key r).stackCondition_fatal c hp]; rfl
  | saturate => rw [s.stackCondition_saturate c hp, (s.withKeysAndRedraw key r).stackCondition_saturate c hp]; rfl

theorem State.callTo_withKeysAndRedraw (nnn : Addr) :
    (s.withKeysAndRedraw key r).callTo nnn = (s.callTo nnn).withKeysAndRedraw key r := by
  by_cases h : s.sp.val < 16
  · rw [s.callTo_of_lt nnn h, (s.withKeysAndRedraw key r).callTo_of_lt nnn h]; rfl
  · have hfull : s.sp.val = 16 := by omega
    rw [s.callTo_of_full nnn hfull, (s.withKeysAndRedraw key r).callTo_of_full nnn hfull,
      State.stackCondition_withKeysAndRedraw]

theorem State.returnFromCall_withKeysAndRedraw :
    (s.withKeysAndRedraw key r).returnFromCall = s.returnFromCall.withKeysAndRedraw key r := by
  by_cases h : 0 < s.sp.val
  · rw [s.returnFromCall_of_pos h, (s.withKeysAndRedraw key r).returnFromCall_of_pos h]; rfl
  · have hempty : s.sp.val = 0 := by omega
    rw [s.returnFromCall_of_empty hempty, (s.withKeysAndRedraw key r).returnFromCall_of_empty hempty,
      State.stackCondition_withKeysAndRedraw]

theorem State.storeRegs_withKeysAndRedraw (x : Nibble) :
    (s.withKeysAndRedraw key r).storeRegs x = (s.storeRegs x).withKeysAndRedraw key r := by
  obtain ⟨m, hm⟩ := s.storeRegs_eq x
  rw [State.storeRegs_congr x s (s.withKeysAndRedraw key r) rfl rfl rfl rfl, hm]; rfl

theorem State.loadRegs_withKeysAndRedraw (x : Nibble) :
    (s.withKeysAndRedraw key r).loadRegs x = (s.loadRegs x).withKeysAndRedraw key r := by
  obtain ⟨v, hv⟩ := s.loadRegs_eq x
  rw [State.loadRegs_congr x s (s.withKeysAndRedraw key r) rfl rfl rfl rfl, hv]; rfl

end

/-- No instruction reads `REDRAW`, and EX9E and EXA1 alone read the keys: with others the next state is the same but for
them, where the keys are kept and `REDRAW` is kept or set. -/
theorem exec_withKeysAndRedraw {i : Instr} {s t : State} (h : exec i s = .next t) {key : Vector Bool 16}
    (hk : key = s.key ∨ ∀ x, i ≠ .skp x ∧ i ≠ .sknp x) (r : Bool) :
    exec i (s.withKeysAndRedraw key r) = .next (t.withKeysAndRedraw key (requestsRedraw i || r)) := by
  cases i with
  | skp x =>
    obtain rfl | hx := hk
    · cases h; rfl
    · exact absurd rfl (hx x).left
  | sknp x =>
    obtain rfl | hx := hk
    · cases h; rfl
    · exact absurd rfl (hx x).right
  | call nnn => cases h; exact congrArg _ (s.callTo_withKeysAndRedraw key r nnn)
  | ret => cases h; exact congrArg _ (s.returnFromCall_withKeysAndRedraw key r)
  | ldMemX x => cases h; exact congrArg (Host.Outcome.next ∘ State.advance) (s.storeRegs_withKeysAndRedraw key r x)
  | ldXMem x => cases h; exact congrArg (Host.Outcome.next ∘ State.advance) (s.loadRegs_withKeysAndRedraw key r x)
  | _ => cases h; rfl

/-- The same of a step: `q` says whether it requests a redraw, whatever the keys and `REDRAW` are. -/
theorem step_withKeysAndRedraw {s t : State} (h : step s = .next t) :
    ∃ q : Bool, ∀ (key : Vector Bool 16) (r : Bool),
      (key = s.key ∨ ∀ x, decode s.fetchWord ≠ .ok (.skp x) ∧ decode s.fetchWord ≠ .ok (.sknp x)) →
        step (s.withKeysAndRedraw key r) = .next (t.withKeysAndRedraw key (q || r)) := by
  obtain ⟨hr, i, hi, he⟩ | ⟨hr, ⟨_, hd⟩, rfl⟩ | ⟨⟨x, hr⟩, rfl⟩ | ⟨c, hr, rfl⟩ := step_cases h
  · refine ⟨requestsRedraw i, fun key r hk => ?_⟩
    have hstep := step_of_decode_ok (s := s.withKeysAndRedraw key r) hr hi
    simp only [hi, ne_eq, Except.ok.injEq] at hk
    exact hstep.trans (exec_withKeysAndRedraw he hk r)
  · exact ⟨false, fun _ _ _ => step_of_decode_error hr hd⟩
  · exact ⟨false, fun _ _ _ => step_of_waitingForKey hr⟩
  · exact ⟨false, fun _ _ _ => step_of_faulted hr⟩

/-- Settles O59: the law above at the state's own keys and `REDRAW` says what the step leaves of them, and at others
that it does not read them. -/
theorem stepTouchesKeysTimersAndRedrawAsListed : Obligations.StepTouchesKeysTimersAndRedrawAsListed := by
  intro s t h
  obtain ⟨q, hq⟩ := step_withKeysAndRedraw h
  obtain ⟨hdt, hst⟩ := step_keeps_timers h
  have ht : t = t.withKeysAndRedraw s.key (q || s.redraw) :=
    Host.Outcome.next.inj (h.symm.trans (hq s.key s.redraw (.inl rfl)))
  have hkey : t.key = s.key := (congrArg State.key ht).trans rfl
  have hredraw : t.redraw = (q || s.redraw) := (congrArg State.redraw ht).trans rfl
  refine ⟨hkey, fun hread key => ?_, hdt, hst, fun hset => ?_, fun r => ⟨q || r, ?_⟩⟩
  · exact (hq key s.redraw (.inr hread)).trans (by rw [← hredraw]; rfl)
  · rw [hredraw, hset, Bool.or_true]
  · exact (hq s.key r (.inl rfl)).trans (by rw [← hkey]; rfl)

end Sys2Proof.Machine
end

section
/-! Control flow (spec/41_control_flow.md): the no-op 0NNN, the jump 1NNN and the four register skips. -/

namespace Sys2Proof.Machine

/-- Equality tests on bytes, in the numbers the rules compare (R185, R187). -/
theorem byte_beq_iff_toNat_eq {a b : Byte} : (a == b) = true ↔ a.toNat = b.toNat :=
  beq_iff_eq.trans BitVec.toNat_inj.symm

/-- The tests of the two negated skips (R186, R188). -/
theorem byte_bne_iff_toNat_ne {a b : Byte} : (a != b) = true ↔ a.toNat ≠ b.toNat :=
  bne_iff_ne.trans BitVec.toNat_ne_iff_ne.symm

/-- Settles O17: each instruction is a skip on the comparison of two bytes. -/
theorem skipsCompareRegisters : Obligations.SkipsCompareRegisters := fun _ _ _ _ =>
  ⟨skipsWhen_of_exec rfl byte_beq_iff_toNat_eq, skipsWhen_of_exec rfl byte_bne_iff_toNat_ne,
    skipsWhen_of_exec rfl byte_beq_iff_toNat_eq, skipsWhen_of_exec rfl byte_bne_iff_toNat_ne⟩

/-- Settles O14: 0NNN is the default update of `PC`, and 1NNN a write of NNN to it. -/
theorem sysAdvancesAndJumpSetsPc : Obligations.SysAdvancesAndJumpSetsPc := fun s nnn =>
  ⟨⟨_, rfl, s.advance_pcMoves, s.advance_onlyChanges⟩,
    ⟨_, rfl, s.setPc_pc_toNat nnn, s.setPc_onlyChanges nnn⟩⟩

end Sys2Proof.Machine
end

section
/-! Register loads and the immediate add (spec/42_alu.md rules R231 to R233, spec/45_keys_timers.md rule R353). -/

namespace Sys2Proof.Machine

/-- An instruction that writes one register and advances. -/
theorem setsRegister_of_exec {i : Instr} {s : State} {x : Nibble} {b : Byte}
    (h : exec i s = .next (s.setV x b).advance) : SetsRegister i s x b.toNat := by
  refine ⟨_, h, ?_, fun k hk => ?_, ?_, ?_⟩
  · exact congrArg _ (s.getV_setV_same x b)
  · exact s.getV_setV_other b (List.ne_of_not_mem_cons hk).symm
  · exact (s.setV x b).advance_pcMoves
  · exact ((s.setV_onlyChanges x b).mono (by simp)).trans ((State.advance_onlyChanges _).mono (by simp))

/-- Settles O21: each instruction writes one register and advances; the sum of two bytes wraps modulo 256. -/
theorem loadsAndImmediateAdd : Obligations.LoadsAndImmediateAdd := by
  intro s x y nn
  have hadd : (s.getV x + nn).toNat = ((s.getV x).toNat + nn.toNat) % 256 := BitVec.toNat_add _ _
  rw [← hadd]
  exact ⟨setsRegister_of_exec rfl, setsRegister_of_exec rfl, setsRegister_of_exec rfl, setsRegister_of_exec rfl⟩

end Sys2Proof.Machine
end

section
/-! The index register and the digit store (spec/43_index_memory.md rules R281 to R284): the three writes to `I`, and
the bytes FX33 leaves. -/

namespace Sys2Proof.Machine

/-- One part written, then the default update of `PC` (R158). -/
theorem OnlyChanges.advance {p : Part} {s u : State} (h : OnlyChanges [p] s u) : OnlyChanges [p, .pc] s u.advance :=
  (h.mono (by simp)).trans (u.advance_onlyChanges.mono (by simp))

/-! ### Writes to `I` -/

theorem State.setI_onlyChanges (s : State) (a : Addr) : OnlyChanges [.i] s (s.setI a) := by
  intro p hp
  cases p with
  | i => exact absurd (List.mem_singleton.2 rfl) hp
  | _ => simp [Part.Same]

/-- An instruction that writes a 12-bit value to `I` and advances. -/
theorem setsIndex_of_exec {i : Instr} {s : State} {a : Addr} (h : exec i s = .next (s.setI a).advance) :
    SetsIndex i s a.toNat :=
  ⟨_, h, s.setI_i_toNat a, (s.setI a).advance_pcMoves, (s.setI_onlyChanges a).advance⟩

/-- The sum of FX1E may overflow 16 bits; `mask12` keeps the same low 12 bits (R282, decision D38). -/
theorem mask12_word_add_byte_toNat (w : Word) (b : Byte) :
    (mask12 (w + zext16 b)).toNat = (w.toNat + b.toNat) % 4096 := by
  rw [mask12_toNat, BitVec.toNat_add, zext16_toNat]
  omega

/-- Settles O28: each instruction writes one 12-bit value to `I`: NNN, the masked sum, the glyph address. -/
theorem indexWritesWrap : Obligations.IndexWritesWrap := by
  intro s x nnn
  rw [← mask12_word_add_byte_toNat s.i (s.getV x), ← s.glyphAddr_toNat (s.getV x)]
  exact ⟨setsIndex_of_exec rfl, setsIndex_of_exec rfl, setsIndex_of_exec rfl⟩

/-! ### The three digits -/

theorem bcdOnes_toNat (b : Byte) : (bcdOnes b).toNat = b.toNat % 10 := by
  rw [bcdOnes, BitVec.toNat_ofNat]
  omega

/-- The ones are written last, so no other write covers them. -/
theorem State.storeBcd_ones (s : State) (b : Byte) : (s.storeBcd b).readMem (s.addrI 2) = bcdOnes b := by
  rw [State.storeBcd_readMem, if_pos rfl]

theorem State.storeBcd_onlyChanges (s : State) (b : Byte) : OnlyChanges [.mem] s (s.storeBcd b) := by
  obtain ⟨m, hm⟩ := s.storeBcd_eq b
  rw [hm]
  intro p hp
  cases p with
  | mem => exact absurd (List.mem_singleton.2 rfl) hp
  | _ => simp [Part.Same, State.getV, State.getKey]

/-- Settles O29: the default update leaves memory as the three writes made it, and each address holds its digit, for the
three addresses differ. -/
theorem bcdStoresThreeDigits : Obligations.BcdStoresThreeDigits := by
  intro s x
  refine ⟨(s.storeBcd (s.getV x)).advance, rfl, ?_, ?_, ?_, ?_, ?_, ?_⟩
  · rw [State.advance_readMem, State.storeBcd_hundreds, bcdHundreds_toNat]
  · rw [State.advance_readMem, State.storeBcd_tens, bcdTens_toNat]
  · rw [State.advance_readMem, State.storeBcd_ones, bcdOnes_toNat]
  · exact s.storeBcd_memSameBut x
  · exact State.advance_pc_toNat_of_pc_eq rfl
  · exact (s.storeBcd_onlyChanges _).advance

end Sys2Proof.Machine
end

section
/-! The display (spec/44_display.md rule R321): the two writes of 00E0, one rule each, and what it leaves. -/

namespace Sys2Proof.Machine

theorem State.setDisp_onlyChanges (s : State) (d : Display) : OnlyChanges [.disp] s (s.setDisp d) := by
  intro p hp
  cases p with
  | disp => exact absurd (List.mem_singleton.2 rfl) hp
  | _ => simp [Part.Same]

theorem State.requestRedraw_onlyChanges (s : State) : OnlyChanges [.redraw] s s.requestRedraw := by
  intro p hp
  cases p with
  | redraw => exact absurd (List.mem_singleton.2 rfl) hp
  | _ => simp [Part.Same]

/-- Settles O34: 00E0 writes the blank display, then requests the redraw, then makes the default update of `PC`. -/
theorem clearBlanksTheDisplay : Obligations.ClearBlanksTheDisplay := by
  intro s
  refine ⟨((s.setDisp Display.blank).requestRedraw).advance, rfl, fun idx => ?_, ?_, ?_, ?_⟩
  · rw [State.advance_disp, State.requestRedraw_disp, State.setDisp_disp, Display.pixel_blank]
  · rw [State.advance_redraw, State.requestRedraw_redraw]
  · exact State.advance_pc_toNat_of_pc_eq rfl
  · exact ((s.setDisp_onlyChanges _).mono (by decide)).trans
      ((State.requestRedraw_onlyChanges _).advance.mono (by decide))

end Sys2Proof.Machine
end

section
/-! Completion (spec/60_exceptions.md rule R380): every instruction and every step answers a next state, and so does
every run of slots. -/

namespace Sys2Proof.Machine

/-- No arm of the dispatch ends in a fault or a refusal. -/
theorem exec_answers_next (i : Instr) (s : State) : ∃ t, exec i s = .next t := by
  cases i <;> exact ⟨_, rfl⟩

/-- Settles O6: by run state, and in `Running` by whether the fetched word decodes. -/
theorem stepAlwaysAnswersNext : Obligations.StepAlwaysAnswersNext := by
  intro s
  cases hr : s.rs with
  | running =>
    cases hd : decode s.fetchWord with
    | ok i =>
      obtain ⟨t, ht⟩ := exec_answers_next i (s.setOut StepOut.none)
      exact ⟨t, (step_of_decode_ok hr hd).trans ht⟩
    | error r => exact ⟨_, step_of_decode_error hr hd⟩
  | waitingForKey x => exact ⟨_, step_of_waitingForKey hr⟩
  | faulted c => exact ⟨_, step_of_faulted hr⟩

theorem runSlots_answers_next (n : Nat) (s : State) : ∃ t outs, runSlots n s = .next (t, outs) := by
  induction n generalizing s with
  | zero => exact ⟨s, [], rfl⟩
  | succ n ih =>
    obtain ⟨t, ht⟩ := stepAlwaysAnswersNext s
    obtain ⟨u, outs, hu⟩ := ih t
    exact ⟨u, t.out :: outs, by simp only [runSlots, ht, hu]⟩

end Sys2Proof.Machine
end

section
/-! The timer engine (spec/60_exceptions.md rules R395 to R397): one tick, and a run of ticks. -/

namespace Sys2Proof.Machine

theorem State.ticked_onlyChanges (s : State) : OnlyChanges [.dt, .st, .sndStart, .tone] s s.ticked := by
  intro p hp
  have hsame := p.same_refl s
  cases p with
  | dt | st | sndStart | tone => exact absurd (by decide) hp
  | _ => exact hsame

/-- Settles O42: both timers count down, the tone is on by the law of `newTone`, and an edge is a change of it. -/
theorem tickGivesToneAndEdge : Obligations.TickGivesToneAndEdge := fun s =>
  ⟨countDown_toNat s.dt, countDown_toNat s.st, s.newTone_iff, rfl, rfl, bne_iff_ne, s.ticked_onlyChanges⟩

/-- Settles O41, by induction on the number of ticks: the first takes 1 and the rest take `n` from what it leaves. -/
theorem timersCountDownToZero : Obligations.TimersCountDownToZero := by
  intro n
  induction n with
  | zero => exact fun s => ⟨rfl, rfl, .refl _ s⟩
  | succ n ih =>
    intro s
    obtain ⟨hdt, hst, hrest⟩ := ih s.ticked
    have hdt1 : s.ticked.dt.toNat = s.dt.toNat - 1 := countDown_toNat s.dt
    have hst1 : s.ticked.st.toNat = s.st.toNat - 1 := countDown_toNat s.st
    refine ⟨?_, ?_, s.ticked_onlyChanges.trans hrest⟩ <;> rw [State.tickedTimes] <;> omega

end Sys2Proof.Machine
end

section
/-! Key delivery (spec/60_exceptions.md rules R411, R412, R421): what one delivery changes, and a queue of them with one
press in it that resolves the latch. -/

namespace Sys2Proof.Machine

/-! ### One delivery -/

theorem State.setKey_onlyChanges (s : State) (k : Nibble) (p : Bool) : OnlyChanges [.key] s (s.setKey k p) := by
  intro q hq
  cases q with
  | key => exact absurd (List.mem_singleton.2 rfl) hq
  | _ => simp [Part.Same]

theorem State.setRs_onlyChanges (s : State) (r : RunState) : OnlyChanges [.rs] s (s.setRs r) := by
  intro p hp
  cases p with
  | rs => exact absurd (List.mem_singleton.2 rfl) hp
  | _ => simp [Part.Same]

theorem State.resolveLatch_onlyChanges (s : State) (x k : Nibble) :
    OnlyChanges [.regs, .pc, .rs] s (s.resolveLatch x k) :=
  ((s.setV_onlyChanges x _).advance.mono (by decide)).trans ((State.setRs_onlyChanges _ _).mono (by decide))

/-- A release, and any event outside the latch, writes its key alone (R411). -/
theorem State.deliverKeyAt_eq_setKey {s : State} (k : Nibble) {p : Bool}
    (h : p = false ∨ ∀ x, s.rs ≠ .waitingForKey x) : s.deliverKeyAt k p = s.setKey k p := by
  obtain rfl | hrs := h
  · exact s.deliverKeyAt_release k
  · exact s.deliverKeyAt_of_not_waiting k p hrs

theorem State.deliverKeyAt_onlyChanges (s : State) (k : Nibble) (p : Bool) :
    OnlyChanges [.key, .regs, .pc, .rs] s (s.deliverKeyAt k p) := by
  by_cases h : p = false ∨ ∀ x, s.rs ≠ .waitingForKey x
  · rw [State.deliverKeyAt_eq_setKey k h]
    exact (s.setKey_onlyChanges k p).mono (by decide)
  · push Not at h
    obtain ⟨hp, x, hx⟩ := h
    rw [Bool.eq_true_of_not_eq_false hp, s.deliverKeyAt_press k x hx]
    exact ((s.setKey_onlyChanges k true).mono (by decide)).trans
      ((State.resolveLatch_onlyChanges _ x k).mono (by decide))

/-! ### The press that resolves the latch (R412) -/

section
variable {s : State} {x : Nibble} (k : Nibble) (h : s.rs = .waitingForKey x)
include h

theorem State.deliverKeyAt_press_getV (j : Nibble) :
    (s.deliverKeyAt k true).getV j = if x = j then k.setWidth 8 else s.getV j := by
  rw [s.deliverKeyAt_press k x h]
  exact State.getV_setV _ x j _

theorem State.deliverKeyAt_press_pcMoves : PcMoves 2 s (s.deliverKeyAt k true) := by
  rw [s.deliverKeyAt_press k x h]
  exact State.advance_pc_toNat_of_pc_eq rfl

theorem State.deliverKeyAt_press_rs : (s.deliverKeyAt k true).rs = .running := by
  rw [s.deliverKeyAt_press k x h]
  rfl

end

/-! ### A queue -/

theorem drainEvents_cons_legal {e : KeyEvent} (he : e.index < 16) (es : List KeyEvent) (s : State) :
    drainEvents (e :: es) s = drainEvents es (s.deliverKeyAt (BitVec.ofNat 4 e.index) e.pressed) := by
  rw [drainEvents, deliverKey_of_lt _ _ he]

theorem drainEvents_onlyChanges {es : List KeyEvent} {s t : State} (h : drainEvents es s = .next t) :
    OnlyChanges [.key, .regs, .pc, .rs] s t :=
  drainEvents_keeps (P := OnlyChanges [.key, .regs, .pc, .rs] s)
    (fun u k p hu => hu.trans (u.deliverKeyAt_onlyChanges k p)) es (.refl _ s) h

/-- Draining a queue is draining its front, then its rest. -/
theorem drainEvents_append {es : List KeyEvent} (h : LegalEvents es) {s t : State} (ht : drainEvents es s = .next t)
    (fs : List KeyEvent) : drainEvents (es ++ fs) s = drainEvents fs t := by
  induction es generalizing s with
  | nil => cases ht; rfl
  | cons e es ih =>
    obtain ⟨he, hes⟩ := List.forall_mem_cons.1 h
    rw [drainEvents_cons_legal he] at ht
    rw [List.cons_append, drainEvents_cons_legal he]
    exact ih hes ht

/-- A queue of releases, and any legal queue outside the latch, writes keys alone. -/
theorem drainEvents_changes_keys_only {es : List KeyEvent} (h : LegalEvents es) {s : State}
    (hq : (∀ e ∈ es, e.pressed = false) ∨ ∀ x, s.rs ≠ .waitingForKey x) :
    ∃ t, drainEvents es s = .next t ∧ OnlyChanges [.key] s t := by
  induction es generalizing s with
  | nil => exact ⟨s, rfl, .refl _ s⟩
  | cons e es ih =>
    obtain ⟨he, hes⟩ := List.forall_mem_cons.1 h
    have hhead : e.pressed = false ∨ ∀ x, s.rs ≠ .waitingForKey x := hq.imp_left fun hr => hr e List.mem_cons_self
    have htail : (∀ e ∈ es, e.pressed = false) ∨ ∀ x, s.rs ≠ .waitingForKey x :=
      hq.imp_left fun hr f hf => hr f (List.mem_cons_of_mem e hf)
    obtain ⟨t, ht, hst⟩ := ih hes (s := s.setKey (BitVec.ofNat 4 e.index) e.pressed) htail
    refine ⟨t, ?_, (s.setKey_onlyChanges _ _).trans hst⟩
    rw [drainEvents_cons_legal he, State.deliverKeyAt_eq_setKey _ hhead, ht]

/-- Settles O39: the releases leave the latch as it was (state `r`), the press resolves it, and in `Running` the events
after it write keys alone (state `t`). -/
theorem onlyTheFirstPressResolves : Obligations.OnlyTheFirstPressResolves := by
  intro s x k before after hs hk hbefore hrel hafter
  obtain ⟨r, hr, hsr⟩ := drainEvents_changes_keys_only hbefore (s := s) (.inl hrel)
  have hrx : r.rs = .waitingForKey x := (hsr .rs (by decide)).trans hs
  have hrun := State.deliverKeyAt_press_rs (BitVec.ofNat 4 k) hrx
  obtain ⟨t, ht, hut⟩ := drainEvents_changes_keys_only hafter
    (s := r.deliverKeyAt (BitVec.ofNat 4 k) true) (.inr fun _ h => RunState.noConfusion (hrun.symm.trans h))
  have hV (j : Nibble) : t.getV j = if x = j then (BitVec.ofNat 4 k).setWidth 8 else s.getV j := by
    rw [hut .regs (by decide) j, State.deliverKeyAt_press_getV _ hrx, hsr .regs (by decide) j]
  refine ⟨t, ?_, ?_, fun j hj => ?_, ?_, (hut .rs (by decide)).trans hrun, ?_⟩
  · rw [drainEvents_append hbefore hr, drainEvents_cons_legal hk, ht]
  · rw [hV, if_pos rfl, BitVec.toNat_setWidth, BitVec.toNat_ofNat]
    omega
  · rw [hV, if_neg (List.ne_of_not_mem_cons hj).symm]
  · rw [PcMoves, hut .pc (by decide), State.deliverKeyAt_press_pcMoves _ hrx, hsr .pc (by decide)]
  · exact (hsr.mono (by decide)).trans ((r.deliverKeyAt_onlyChanges _ true).trans (hut.mono (by decide)))

end Sys2Proof.Machine
end

section
/-! The frame (spec/60_exceptions.md rules R420 to R429): no step writes the parameters or the accumulator, the end of a
frame by parts, and the frame put together. -/

namespace Sys2Proof.Machine

/-! ### The accumulator over the slots -/

/-- No instruction writes what fixes a frame's number of slots: the parameters (log 1) and `ACC`, which R422 alone
updates. -/
theorem exec_keeps_cfg_acc {i : Instr} {s t : State} (h : exec i s = .next t) : t.cfg = s.cfg ∧ t.acc = s.acc := by
  cases i with
  | call nnn =>
    cases h
    exact ⟨s.callTo_onlyChanges nnn .cfg (by decide), s.callTo_onlyChanges nnn .acc (by decide)⟩
  | ret =>
    cases h
    exact ⟨s.returnFromCall_onlyChanges .cfg (by decide), s.returnFromCall_onlyChanges .acc (by decide)⟩
  | ldMemX x =>
    cases h
    exact ⟨s.storeRegs_onlyChanges x .cfg (by decide), s.storeRegs_onlyChanges x .acc (by decide)⟩
  | ldXMem x =>
    cases h
    exact ⟨s.loadRegs_onlyChanges x .cfg (by decide), s.loadRegs_onlyChanges x .acc (by decide)⟩
  | _ => cases h; exact ⟨rfl, rfl⟩

theorem step_keeps_cfg_acc {s t : State} (h : step s = .next t) : t.cfg = s.cfg ∧ t.acc = s.acc := by
  obtain ⟨-, i, -, he⟩ | ⟨-, -, rfl⟩ | ⟨-, rfl⟩ | ⟨c, -, rfl⟩ := step_cases h
  · obtain ⟨hcfg, hacc⟩ := exec_keeps_cfg_acc he
    exact ⟨hcfg, hacc⟩
  · exact ⟨rfl, rfl⟩
  · exact ⟨rfl, rfl⟩
  · exact ⟨rfl, rfl⟩

theorem runSlots_keeps_cfg_acc {n : Nat} {s t : State} {outs : List StepOut} (h : runSlots n s = .next (t, outs)) :
    t.cfg = s.cfg ∧ t.acc = s.acc :=
  runSlots_keeps (P := fun u => u.cfg = s.cfg ∧ u.acc = s.acc)
    (fun _ _ ⟨hcfg, hacc⟩ hstep =>
      let ⟨hcfg', hacc'⟩ := step_keeps_cfg_acc hstep
      ⟨hcfg'.trans hcfg, hacc'.trans hacc⟩)
    n ⟨rfl, rfl⟩ h

/-! ### The frame by parts -/

theorem drainEvents_budget {es : List KeyEvent} {s t : State} (h : drainEvents es s = .next t) :
    t.budget = s.acc.val + s.cfg.rate := by
  rw [State.budget, drainEvents_onlyChanges h .acc (by decide), drainEvents_onlyChanges h .cfg (by decide)]

/-- What the end of a frame leaves whether or not a fault is held: one tick, no redraw request, the snapshot of the
display and the slots' outputs; the tone, the sound and the fault depend on it. -/
theorem endFrame_eq (v : State) (outs : List StepOut) : ∃ tone sound fault, endFrame v outs =
    ({ v.ticked with redraw := false, tone := tone }, ⟨if v.redraw then some v.disp else none, sound, fault, outs⟩) := by
  by_cases h : v.NotFaulted
  · exact ⟨_, _, _, endFrame_of_notFaulted v outs h⟩
  · obtain ⟨c, hc⟩ := Classical.not_forall_not.1 h
    exact ⟨_, _, _, endFrame_of_faulted v outs c hc⟩

theorem endFrame_onlyChanges (v : State) (outs : List StepOut) :
    OnlyChanges [.dt, .st, .sndStart, .tone, .redraw] v (endFrame v outs).1 := by
  obtain ⟨tone, sound, fault, he⟩ := endFrame_eq v outs
  rw [he]
  intro p hp
  have hsame := p.same_refl v
  cases p with
  | dt | st | sndStart | tone | redraw => exact absurd (by decide) hp
  | _ => exact hsame

theorem frame_of_notFaulted {es : List KeyEvent} {s t v : State} {outs : List StepOut} (hs : s.NotFaulted)
    (ht : drainEvents es s = .next t) (hv : runSlots t.slots t.carryAcc = .next (v, outs)) :
    frame es s = .next (endFrame v outs) := by
  simp only [frame, State.faultCause_eq_none.2 hs, ht, hv]

/-- Settles O46: legal events drain and slots complete, the accumulator set before the slots outlives them, and the end
of the frame is known by parts, its tone, sound and fault by whether the slots ended in `Faulted`. -/
theorem frameRunsInOrder : Obligations.FrameRunsInOrder := by
  intro s es hs hes
  have ht := drainEvents_legal es hes s
  generalize es.foldl _ s = t at ht
  obtain ⟨v, outs, hv⟩ := runSlots_answers_next t.slots t.carryAcc
  obtain ⟨tone, sound, fault, he⟩ := endFrame_eq v outs
  have hbudget := drainEvents_budget ht
  have hslots : t.slots = (s.acc.val + s.cfg.rate) / 60 := by rw [State.slots, hbudget]
  have hacc : v.acc.val = (s.acc.val + s.cfg.rate) % 60 := by
    rw [(runSlots_keeps_cfg_acc hv).right, ← hbudget]
    rfl
  have hsteps : (endFrame v outs).2.steps = outs := by rw [he]
  refine ⟨t, v, (endFrame v outs).1, (endFrame v outs).2, ht, ?_, frame_of_notFaulted hs ht hv, ?_, ?_, ?_, ?_, ?_, ?_,
    ?_, fun hn => ?_, fun c hc => ?_, endFrame_onlyChanges v outs⟩
  · rw [hsteps, ← hslots, hv]
  · rw [hsteps, runSlots_length _ hv, hslots]
  · rw [endFrame_onlyChanges v outs .acc (by decide), hacc]
  · rw [he]; exact countDown_toNat v.dt
  · rw [he]; exact countDown_toNat v.st
  · rw [he]; rfl
  · rw [he]
  · rw [he]
  · rw [endFrame_of_notFaulted v outs hn]; exact ⟨rfl, rfl, rfl⟩
  · rw [endFrame_of_faulted v outs c hc]; exact ⟨rfl, rfl⟩

end Sys2Proof.Machine
end

section
/-! The run state (spec/40_step_engine.md rule R156): what an instruction does when it meets a stack condition, and what
every other instruction leaves of `RS` and of the outputs. -/

namespace Sys2Proof.Machine

/-- A stack condition is met by a call at depth 16 or by a return at depth 0 (R383). -/
theorem stackCause_eq_some {i : Instr} {s : State} {c : Cause} (h : stackCause s i = some c) :
    ((∃ nnn, i = .call nnn) ∧ c = .stackOverflow ∧ s.sp.val = 16) ∨
      (i = .ret ∧ c = .stackUnderflow ∧ s.sp.val = 0) := by
  cases i with
  | call nnn =>
    rw [stackCause, Option.ite_none_right_eq_some] at h
    obtain ⟨hfull, hc⟩ := h
    exact .inl ⟨⟨nnn, rfl⟩, (Option.some.inj hc).symm, hfull⟩
  | ret =>
    rw [stackCause, Option.ite_none_right_eq_some] at h
    obtain ⟨hempty, hc⟩ := h
    exact .inr ⟨rfl, (Option.some.inj hc).symm, hempty⟩
  | _ => cases h

/-- An instruction that meets a stack condition does nothing but handle it as the policy says (R383). -/
theorem exec_of_stackCause {i : Instr} {s : State} {c : Cause} (h : stackCause s i = some c) :
    exec i s = .next (s.stackCondition c) := by
  obtain ⟨⟨nnn, rfl⟩, rfl, hfull⟩ | ⟨rfl, rfl, hempty⟩ := stackCause_eq_some h
  · exact congrArg _ (s.callTo_of_full nnn hfull)
  · exact congrArg _ (s.returnFromCall_of_empty hempty)

theorem State.callTo_of_no_stackCause {s : State} {nnn : Addr} (h : stackCause s (.call nnn) = none) :
    (s.callTo nnn).out = s.out ∧ (s.callTo nnn).rs = s.rs := by
  have hsp : s.sp.val ≠ 16 := fun e => Option.some_ne_none _ ((if_pos e).symm.trans h)
  rw [s.callTo_of_lt nnn (by omega)]
  exact ⟨rfl, rfl⟩

theorem State.returnFromCall_of_no_stackCause {s : State} (h : stackCause s .ret = none) :
    s.returnFromCall.out = s.out ∧ s.returnFromCall.rs = s.rs := by
  have hsp : s.sp.val ≠ 0 := fun e => Option.some_ne_none _ ((if_pos e).symm.trans h)
  rw [s.returnFromCall_of_pos (by omega)]
  exact ⟨rfl, rfl⟩

/-- Without a stack condition an instruction leaves the outputs, and FX0A alone writes `RS`. -/
theorem exec_of_no_stackCause {i : Instr} {s t : State} (hc : stackCause s i = none) (h : exec i s = .next t) :
    t.out = s.out ∧ ((∀ x, i ≠ .ldXK x) ∧ t.rs = s.rs ∨ ∃ x, i = .ldXK x ∧ t = s.setRs (.waitingForKey x)) := by
  cases i with
  | call nnn =>
    cases h
    obtain ⟨hout, hrs⟩ := State.callTo_of_no_stackCause hc
    exact ⟨hout, .inl ⟨nofun, hrs⟩⟩
  | ret =>
    cases h
    obtain ⟨hout, hrs⟩ := State.returnFromCall_of_no_stackCause hc
    exact ⟨hout, .inl ⟨nofun, hrs⟩⟩
  | ldMemX x =>
    cases h
    exact ⟨s.storeRegs_onlyChanges x .out (by decide), .inl ⟨nofun, s.storeRegs_onlyChanges x .rs (by decide)⟩⟩
  | ldXMem x =>
    cases h
    exact ⟨s.loadRegs_onlyChanges x .out (by decide), .inl ⟨nofun, s.loadRegs_onlyChanges x .rs (by decide)⟩⟩
  | ldXK x => cases h; exact ⟨rfl, .inr ⟨x, rfl, rfl⟩⟩
  | _ => cases h; exact ⟨rfl, .inl ⟨nofun, rfl⟩⟩

/-- Every way an instruction executed in `Running` can leave the run state (R156). -/
theorem exec_runState_cases {i : Instr} {s t : State} (hr : s.rs = .running) (h : exec i s = .next t) :
    t.rs = .running ∨ (∃ x, i = .ldXK x ∧ t = s.setRs (.waitingForKey x)) ∨
      ∃ c, stackCause s i = some c ∧ s.cfg.stackPolicy = .fatal ∧ t = s.fatal c := by
  cases hc : stackCause s i with
  | none => exact (exec_of_no_stackCause hc h).2.elim (fun ⟨_, hrs⟩ => .inl (hrs.trans hr)) fun hx => .inr (.inl hx)
  | some c =>
    have ht : t = s.stackCondition c := Host.Outcome.next.inj (h.symm.trans (exec_of_stackCause hc))
    cases hp : s.cfg.stackPolicy with
    | fatal => exact .inr (.inr ⟨c, rfl, rfl, ht.trans (s.stackCondition_fatal c hp)⟩)
    | saturate => rw [ht, s.stackCondition_saturate c hp]; exact .inl hr

/-- Both ways to handle a stack condition report its cause and nothing else (R384, R385). -/
theorem State.stackCondition_out (s : State) (c : Cause) :
    (s.stackCondition c).out = { s.out with fault := some c } := by
  cases hp : s.cfg.stackPolicy with
  | fatal => rw [s.stackCondition_fatal c hp]; rfl
  | saturate => rw [s.stackCondition_saturate c hp]; rfl

theorem State.stackCondition_rs {i : Instr} {s : State} {c : Cause} (hr : s.rs = .running)
    (hc : stackCause s i = some c) : (s.stackCondition c).rs = runStateAfter s i := by
  -- the hypothesis by which `simp` passes the first arm of `runStateAfter`
  have hi : ∀ x, i ≠ .ldXK x := by rintro x rfl; cases hc
  cases hp : s.cfg.stackPolicy with
  | fatal =>
    simp [s.stackCondition_fatal c hp, State.fatal, runStateAfter, hc, hp]
  | saturate =>
    simp [s.stackCondition_saturate c hp, State.saturate, runStateAfter, hc, hp, hr]

theorem runStateAfter_of_no_stackCause {i : Instr} {s : State} (hc : stackCause s i = none) (hi : ∀ x, i ≠ .ldXK x) :
    runStateAfter s i = .running := by
  simp [runStateAfter, hc]

/-- Settles O58: an instruction that meets a stack condition only handles it, and FX0A alone writes `RS` otherwise. -/
theorem runStateMovesAsListed : Obligations.RunStateMovesAsListed := by
  intro i s t hr h
  cases hc : stackCause s i with
  | none =>
    obtain ⟨hout, ⟨hi, hrs⟩ | ⟨x, rfl, rfl⟩⟩ := exec_of_no_stackCause hc h
    · rw [hout, hrs, hr, runStateAfter_of_no_stackCause hc hi]
      exact ⟨rfl, rfl, rfl⟩
    · exact ⟨rfl, rfl, rfl⟩
  | some c =>
    cases (exec_of_stackCause hc).symm.trans h
    rw [State.stackCondition_out]
    exact ⟨State.stackCondition_rs hr hc, rfl, rfl⟩

end Sys2Proof.Machine
end

section
/-! The invariants of the core (spec/10_state.md sections 3 to 5 and 11, spec/60_exceptions.md sections 1, 2 and 6):
what every instruction, every step and every operation keeps. -/

namespace Sys2Proof.Machine

/-! ### Addresses in range and memory canonical -/

/-- The part of the invariant that says nothing about the run state. -/
def State.Canonical (s : State) : Prop := s.AddressesInRange ∧ s.MemCanonical

theorem State.Canonical.setPc {s : State} (h : s.Canonical) (a : Addr) : (s.setPc a).Canonical := by
  obtain ⟨⟨-, hi, hfault, hstack⟩, hmem⟩ := h
  exact ⟨⟨addr_setWidth_lt a, hi, hfault, hstack⟩, hmem⟩

theorem State.Canonical.setI {s : State} (h : s.Canonical) (a : Addr) : (s.setI a).Canonical := by
  obtain ⟨⟨hpc, -, hfault, hstack⟩, hmem⟩ := h
  exact ⟨⟨hpc, addr_setWidth_lt a, hfault, hstack⟩, hmem⟩

theorem State.Canonical.withMem {s : State} (h : s.Canonical) {m : Memory} (hm : Memory.wf s.cfg m = true) :
    State.Canonical { s with mem := m } := by
  obtain ⟨haddr, -⟩ := h
  exact ⟨haddr, hm⟩

theorem State.Canonical.advance {s : State} (h : s.Canonical) : s.advance.Canonical := h.setPc _

theorem State.Canonical.stackCondition {s : State} (h : s.Canonical) (c : Cause) : (s.stackCondition c).Canonical := by
  cases hp : s.cfg.stackPolicy with
  | fatal =>
    obtain ⟨⟨hpc, hi, -, hstack⟩, hmem⟩ := h
    rw [s.stackCondition_fatal c hp]
    exact ⟨⟨hpc, hi, hpc, hstack⟩, hmem⟩
  | saturate =>
    rw [s.stackCondition_saturate c hp]
    exact State.Canonical.advance h

/-- The return address that a call pushes is masked to 12 bits (R184, decision D5). -/
theorem State.Canonical.callTo {s : State} (h : s.Canonical) (nnn : Addr) : (s.callTo nnn).Canonical := by
  by_cases hsp : s.sp.val < 16
  · obtain ⟨⟨-, hi, hfault, hstack⟩, hmem⟩ := h
    rw [s.callTo_of_lt nnn hsp]
    refine ⟨⟨addr_setWidth_lt nnn, hi, hfault, fun k => ?_⟩, hmem⟩
    rw [Fin.getElem_fin, Vector.getElem_set]
    split
    · exact addr_setWidth_lt _
    · exact hstack k
  · rw [s.callTo_of_full nnn (by omega)]
    exact h.stackCondition _

theorem State.Canonical.returnFromCall {s : State} (h : s.Canonical) : s.returnFromCall.Canonical := by
  by_cases hsp : 0 < s.sp.val
  · obtain ⟨⟨-, hi, hfault, hstack⟩, hmem⟩ := h
    rw [s.returnFromCall_of_pos hsp]
    exact ⟨⟨addr_setWidth_lt _, hi, hfault, hstack⟩, hmem⟩
  · rw [s.returnFromCall_of_empty (by omega)]
    exact h.stackCondition _

theorem State.Canonical.storeRegs {s : State} (h : s.Canonical) (x : Nibble) : (s.storeRegs x).Canonical := by
  obtain ⟨m, hm⟩ := s.storeRegs_eq x
  have hwf := s.storeRegs_wf x h.right
  rw [hm] at hwf ⊢
  exact h.withMem hwf

theorem State.Canonical.loadRegs {s : State} (h : s.Canonical) (x : Nibble) : (s.loadRegs x).Canonical := by
  obtain ⟨v, hv⟩ := s.loadRegs_eq x
  rw [hv]
  exact h

theorem State.Canonical.storeBytes {s : State} (h : s.Canonical) (a : Nat) (bs : List Byte) :
    (s.storeBytes a bs).Canonical := by
  obtain ⟨m, hm⟩ := State.storeBytes_eq bs s a
  have hwf := State.storeBytes_wf bs s a h.right
  rw [hm] at hwf ⊢
  exact h.withMem hwf

/-- Instructions that write neither `I` nor memory nor the stack only advance, as far as this goes. -/
theorem exec_keeps_canonical {i : Instr} {s t : State} (hs : s.Canonical) (h : exec i s = .next t) : t.Canonical := by
  cases i with
  | jp | jpV0 | seImm | sneImm | seReg | sneReg | skp | sknp => cases h; exact hs.setPc _
  | call nnn => cases h; exact hs.callTo nnn
  | ret => cases h; exact hs.returnFromCall
  | ldI | addIX | ldFX => cases h; exact (hs.setI _).advance
  | ldXK => cases h; exact hs
  | ldBX x => cases h; exact (hs.withMem (s.storeBcd_wf _ hs.right)).advance
  | ldMemX x => cases h; exact (hs.storeRegs x).advance
  | ldXMem x => cases h; exact (hs.loadRegs x).advance
  | _ => cases h; exact State.Canonical.advance hs

/-! ### A held fault is precise -/

theorem State.faultPrecise_of_notFaulted {s : State} (h : s.NotFaulted) : s.FaultPrecise := fun c hc =>
  absurd hc (h c)

theorem State.notFaulted_of_running {s : State} (h : s.rs = .running) : s.NotFaulted := fun _ hc =>
  RunState.noConfusion (h.symm.trans hc)

/-- A fault taken at a stack condition holds its `PC` and the `SP` that caused it (R384). -/
theorem State.fatal_faultPrecise {i : Instr} {s : State} {c : Cause} (hc : stackCause s i = some c)
    (hp : s.cfg.stackPolicy = .fatal) : (s.fatal c).FaultPrecise := by
  intro c' hc'
  cases hc'
  refine ⟨hp, rfl, ?_⟩
  obtain ⟨-, hcause, hsp⟩ | ⟨-, hcause, hsp⟩ := stackCause_eq_some hc
  · exact .inl ⟨hcause, hsp⟩
  · exact .inr ⟨hcause, hsp⟩

theorem exec_faultPrecise {i : Instr} {s t : State} (hr : s.rs = .running) (h : exec i s = .next t) :
    t.FaultPrecise := by
  obtain hrun | ⟨x, -, rfl⟩ | ⟨c, hc, hp, rfl⟩ := exec_runState_cases hr h
  · exact State.faultPrecise_of_notFaulted (State.notFaulted_of_running hrun)
  · exact State.faultPrecise_of_notFaulted nofun
  · exact State.fatal_faultPrecise hc hp

/-! ### The invariant under a step -/

theorem State.inv_iff {s : State} : s.Inv ↔ s.Canonical ∧ s.FaultPrecise := and_assoc.symm

theorem exec_keeps_inv {i : Instr} {s t : State} (hr : s.rs = .running) (hs : s.Inv) (h : exec i s = .next t) :
    t.Inv :=
  State.inv_iff.2 ⟨exec_keeps_canonical (State.inv_iff.1 hs).left h, exec_faultPrecise hr h⟩

/-- Away from a fault, a move of `PC` makes nothing imprecise. -/
theorem State.Inv.advance {s : State} (h : s.Inv) (hr : s.rs = .running) : s.advance.Inv :=
  State.inv_iff.2 ⟨(State.inv_iff.1 h).left.advance, State.faultPrecise_of_notFaulted (State.notFaulted_of_running hr)⟩

theorem step_keeps_inv {s t : State} (hs : s.Inv) (h : step s = .next t) : t.Inv := by
  -- the outputs are no part of the invariant
  have hout (o : StepOut) : (s.setOut o).Inv := hs
  obtain ⟨hr, i, -, he⟩ | ⟨hr, -, rfl⟩ | ⟨-, rfl⟩ | ⟨c, -, rfl⟩ := step_cases h
  · exact exec_keeps_inv (s := s.setOut StepOut.none) hr (hout _) he
  · exact State.Inv.advance (hout _) hr
  · exact hout _
  · exact hout _

/-- Settles O52: an instruction keeps addresses and memory whatever the run state, and enters `Faulted` only at a stack
condition; the other steps write the outputs and, in `Running`, advance. -/
theorem stepKeepsTheInvariant : Obligations.StepKeepsTheInvariant := fun _ _ => step_keeps_inv

/-! ### What every operation keeps -/

theorem eq_storeBytes_of_applyOp_load {bytes : List Byte} {offset : Addr} {s t : State}
    (h : applyOp (.load bytes offset) s = .next t) : t = s.storeBytes offset.toNat bytes := by
  by_cases hlen : 4096 < offset.toNat + bytes.length
  · rw [applyOp, load, if_pos hlen] at h
    cases h
  · rw [applyOp, load, if_neg hlen] at h
    cases h
    rfl

theorem eq_deliverKeyAt_of_deliverKey {k : Nat} {p : Bool} {s t : State} (h : deliverKey k p s = .next t) :
    t = s.deliverKeyAt (BitVec.ofNat 4 k) p := by
  by_cases hk : k < 16
  · cases (deliverKey_of_lt p s hk).symm.trans h
    rfl
  · cases (deliverKey_of_ge p s (Nat.le_of_not_lt hk)).symm.trans h

theorem frame_of_applyOp_frame {events : List KeyEvent} {s t : State} (h : applyOp (.frame events) s = .next t) :
    ∃ o, frame events s = .next (t, o) := by
  rw [applyOp] at h
  split at h
  next u o hu => cases h; exact ⟨o, hu⟩
  next => cases h
  next => cases h

/-- What a delivery, a step, a tick, the updates of `ACC` and of `REDRAW` and `TONE` in a frame, and the load in
question keep, an operation keeps. -/
theorem applyOp_keeps {P : State → Prop} (hkey : ∀ s k p, P s → P (s.deliverKeyAt k p))
    (hstep : ∀ s t, P s → step s = .next t → P t) (htick : ∀ s, P s → P s.ticked) (hacc : ∀ s, P s → P s.carryAcc)
    (hend : ∀ s redraw tone, P s → P { s with redraw := redraw, tone := tone }) {op : HostOp} {s t : State}
    (hload : ∀ bytes offset, op = .load bytes offset → P (s.storeBytes offset.toNat bytes)) (hs : P s)
    (h : applyOp op s = .next t) : P t := by
  cases op with
  | load bytes offset => exact eq_storeBytes_of_applyOp_load h ▸ hload bytes offset rfl
  | step => exact hstep s t hs h
  | deliverKey k p => exact eq_deliverKeyAt_of_deliverKey h ▸ hkey s _ p hs
  | tickTimers => cases h; exact htick s hs
  | frame events =>
    obtain ⟨o, ho⟩ := frame_of_applyOp_frame h
    refine frame_keeps hkey hstep hacc (fun v outs hv => ?_) hs ho
    obtain ⟨tone, sound, fault, he⟩ := endFrame_eq v outs
    rw [he]
    exact hend _ false tone (htick v hv)

theorem State.Inv.deliverKeyAt {s : State} (h : s.Inv) (k : Nibble) (p : Bool) : (s.deliverKeyAt k p).Inv := by
  -- the keys and the registers are no part of the invariant
  have hkey : (s.setKey k p).Inv := h
  by_cases hk : p = false ∨ ∀ x, s.rs ≠ .waitingForKey x
  · rw [State.deliverKeyAt_eq_setKey k hk]
    exact hkey
  · push Not at hk
    obtain ⟨hp, x, hx⟩ := hk
    obtain rfl := Bool.eq_true_of_not_eq_false hp
    rw [s.deliverKeyAt_press k x hx]
    exact State.inv_iff.2 ⟨State.Canonical.advance (State.inv_iff.1 hkey).left,
      State.faultPrecise_of_notFaulted (State.notFaulted_of_running rfl)⟩

theorem State.Inv.storeBytes {s : State} (h : s.Inv) (a : Nat) (bs : List Byte) : (s.storeBytes a bs).Inv := by
  obtain ⟨hcan, hprecise⟩ := State.inv_iff.1 h
  refine State.inv_iff.2 ⟨hcan.storeBytes a bs, ?_⟩
  obtain ⟨m, hm⟩ := State.storeBytes_eq bs s a
  rw [hm]
  exact hprecise

/-- Settles O53: a frame is deliveries, steps and a tick, and its own updates and a tick's write no part of the
invariant. -/
theorem everyOperationKeepsTheInvariant : Obligations.EveryOperationKeepsTheInvariant := fun _ _ _ hs h =>
  applyOp_keeps (fun _ k p hu => hu.deliverKeyAt k p) (fun _ _ => step_keeps_inv) (fun _ hu => hu) (fun _ hu => hu)
    (fun _ _ _ hu => hu) (fun bytes offset _ => hs.storeBytes offset.toNat bytes) hs h

/-! ### The instruction of a latch or of a held fault -/

theorem State.holdsItsInstruction_of_running {s : State} (h : s.rs = .running) : s.HoldsItsInstruction :=
  ⟨fun _ hx => RunState.noConfusion (h.symm.trans hx), fun hx => RunState.noConfusion (h.symm.trans hx),
    fun hx => RunState.noConfusion (h.symm.trans hx)⟩

/-- FX0A sets the latch at itself, and a stack condition under `fatal` stops at its call or return (R354, R384). -/
theorem exec_holdsItsInstruction {i : Instr} {s t : State} (hr : s.rs = .running) (hd : decode s.fetchWord = .ok i)
    (h : exec i s = .next t) : t.HoldsItsInstruction := by
  obtain hrun | ⟨x, rfl, rfl⟩ | ⟨c, hc, -, rfl⟩ := exec_runState_cases hr h
  · exact State.holdsItsInstruction_of_running hrun
  · refine ⟨fun y hy => ?_, nofun, nofun⟩
    cases hy
    exact hd
  · have hfetch : (s.fatal c).fetchWord = s.fetchWord := rfl
    rw [State.HoldsItsInstruction, hfetch, hd]
    obtain ⟨⟨nnn, rfl⟩, rfl, -⟩ | ⟨rfl, rfl, -⟩ := stackCause_eq_some hc
    · exact ⟨nofun, fun _ => ⟨nnn, rfl⟩, nofun⟩
    · exact ⟨nofun, nofun, fun _ => rfl⟩

theorem step_keeps_holdsItsInstruction {s t : State} (hs : s.HoldsItsInstruction) (h : step s = .next t) :
    t.HoldsItsInstruction := by
  obtain ⟨hr, i, hd, he⟩ | ⟨hr, -, rfl⟩ | ⟨-, rfl⟩ | ⟨c, -, rfl⟩ := step_cases h
  · exact exec_holdsItsInstruction (s := s.setOut StepOut.none) hr hd he
  · exact State.holdsItsInstruction_of_running hr
  · exact hs
  · exact hs

theorem State.HoldsItsInstruction.deliverKeyAt {s : State} (h : s.HoldsItsInstruction) (k : Nibble) (p : Bool) :
    (s.deliverKeyAt k p).HoldsItsInstruction := by
  by_cases hk : p = false ∨ ∀ x, s.rs ≠ .waitingForKey x
  · rw [State.deliverKeyAt_eq_setKey k hk]
    exact h
  · push Not at hk
    obtain ⟨hp, x, hx⟩ := hk
    obtain rfl := Bool.eq_true_of_not_eq_false hp
    exact State.holdsItsInstruction_of_running (State.deliverKeyAt_press_rs k hx)

/-- Settles O54: an instruction enters the latch or `Faulted` at its own word, a press leaves the latch for `Running`, and
no other part of an operation but a load writes `RS`, `PC` or memory. -/
theorem waitingAndFaultedCoreHoldsItsInstruction : Obligations.WaitingAndFaultedCoreHoldsItsInstruction :=
  fun _ _ _ hop hs h =>
    applyOp_keeps (fun _ k p hu => hu.deliverKeyAt k p) (fun _ _ => step_keeps_holdsItsInstruction) (fun _ hu => hu)
      (fun _ hu => hu) (fun _ _ _ hu => hu) (fun bytes offset e => absurd e (hop bytes offset)) hs h

/-! ### Reset -/

/-- Settles O51: memory lists nothing, and every address is a constant below 0x1000. -/
theorem invariantsHoldAtReset : Obligations.InvariantsHoldAtReset := fun cfg =>
  have hrun : (State.resetWith cfg).rs = .running := rfl
  ⟨⟨⟨(by decide : (0x200 : Word).toNat < 4096), (by decide : (0 : Word).toNat < 4096),
      (by decide : (0 : Word).toNat < 4096), fun k => by simp [State.resetWith]⟩,
    State.resetWith_wf cfg, State.faultPrecise_of_notFaulted (State.notFaulted_of_running hrun)⟩,
    State.holdsItsInstruction_of_running hrun⟩

/-! ### `Faulted` is terminal -/

theorem State.storeBytes_onlyChanges (bs : List Byte) (s : State) (a : Nat) :
    OnlyChanges [.mem] s (s.storeBytes a bs) := by
  obtain ⟨m, hm⟩ := State.storeBytes_eq bs s a
  rw [hm]
  intro p hp
  cases p with
  | mem => exact absurd (List.mem_singleton.2 rfl) hp
  | _ => simp [Part.Same, State.getV, State.getKey]

theorem frame_of_faulted {s : State} {c : Cause} (h : s.rs = .faulted c) (events : List KeyEvent) :
    frame events s = .next (s, ⟨none, none, some c, []⟩) := by
  simp only [frame, State.faultCause_eq_some.2 h]

/-- An operation in `Faulted` changes memory, one key, the timers and the tone, the outputs, or nothing. -/
theorem applyOp_onlyChanges_of_faulted {op : HostOp} {s t : State} {c : Cause} (hc : s.rs = .faulted c)
    (h : applyOp op s = .next t) :
    (∃ bytes offset, op = .load bytes offset) ∧ OnlyChanges [.mem] s t ∨
      OnlyChanges [.key, .dt, .st, .sndStart, .tone, .out] s t := by
  cases op with
  | load bytes offset =>
    rw [eq_storeBytes_of_applyOp_load h]
    exact .inl ⟨⟨bytes, offset, rfl⟩, State.storeBytes_onlyChanges bytes s _⟩
  | step =>
    cases (step_of_faulted hc).symm.trans h
    exact .inr ((s.setOut_onlyChanges _).mono (by decide))
  | deliverKey k p =>
    have hk : ∀ x, s.rs ≠ .waitingForKey x := fun _ hx => RunState.noConfusion (hc.symm.trans hx)
    rw [eq_deliverKeyAt_of_deliverKey h, State.deliverKeyAt_eq_setKey _ (.inr hk)]
    exact .inr ((s.setKey_onlyChanges _ p).mono (by decide))
  | tickTimers => cases h; exact .inr (s.ticked_onlyChanges.mono (by decide))
  | frame events =>
    obtain ⟨o, ho⟩ := frame_of_applyOp_frame h
    cases (frame_of_faulted hc events).symm.trans ho
    exact .inr (.refl _ s)

/-- Settles O49: none of the parts that an operation changes in `Faulted` is `RS`, and a load alone changes memory. -/
theorem faultedIsTerminal : Obligations.FaultedIsTerminal := by
  intro op s t c hc h
  obtain ⟨⟨bytes, offset, rfl⟩, hmem⟩ | hrest := applyOp_onlyChanges_of_faulted hc h
  · exact ⟨(hmem .rs (by decide)).trans hc, hmem.mono (by decide), fun hop => absurd rfl (hop bytes offset)⟩
  · exact ⟨(hrest .rs (by decide)).trans hc, hrest.mono (by decide), fun _ => hrest .mem (by decide)⟩

end Sys2Proof.Machine
end

section
/-! The words that are no instruction (spec/30_encoding.md rule R118). -/

namespace Sys2Proof

/-! ### The unknown words of the groups that subdivide -/

theorem decodeGroup8_error_iff (x y n : Nibble) :
    (∃ r, decodeGroup8 x y n = .error r) ↔ n.toNat ∈ [8, 9, 10, 11, 12, 13, 15] := by
  unfold decodeGroup8
  split
  case h_10 =>
    refine iff_of_true ⟨_, rfl⟩ ?_
    simp only [imp_false, List.mem_cons, List.not_mem_nil, or_false] at *
    bv_omega
  all_goals exact iff_of_false nofun (by decide)

theorem decodeGroupE_error_iff (x : Nibble) (nn : Byte) :
    (∃ r, decodeGroupE x nn = .error r) ↔ nn.toNat ∉ [0x9E, 0xA1] := by
  unfold decodeGroupE
  split
  case h_3 =>
    refine iff_of_true ⟨_, rfl⟩ ?_
    simp only [imp_false, List.mem_cons, List.not_mem_nil, or_false] at *
    bv_omega
  all_goals exact iff_of_false nofun (by decide)

theorem decodeGroupF_error_iff (x : Nibble) (nn : Byte) :
    (∃ r, decodeGroupF x nn = .error r) ↔
      nn.toNat ∉ [0x07, 0x0A, 0x15, 0x18, 0x1E, 0x29, 0x33, 0x55, 0x65] := by
  unfold decodeGroupF
  split
  case h_10 =>
    refine iff_of_true ⟨_, rfl⟩ ?_
    simp only [imp_false, List.mem_cons, List.not_mem_nil, or_false] at *
    bv_omega
  all_goals exact iff_of_false nofun (by decide)

/-- In groups 5 and 9 the low nibble alone tells a known word. -/
theorem ite_nibble_zero_error_iff {n : Nibble} {i : Instr} {e : Reject} :
    (∃ r, (if n = 0x0#4 then Except.ok i else .error e) = .error r) ↔ n.toNat ≠ 0 := by
  by_cases h : n = 0x0#4
  · rw [if_pos h, h]
    exact iff_of_false nofun (by decide)
  · rw [if_neg h]
    exact iff_of_true ⟨_, rfl⟩ fun e => h (BitVec.eq_of_toNat_eq e)

/-! ### The table of R118 -/

theorem fieldGroup_eq_iff {w : Word} {g : Nibble} : fieldGroup w = g ↔ w.toNat / 4096 = g.toNat := by
  have h := w.isLt
  rw [← BitVec.toNat_inj, fieldGroup_toNat, Nat.mod_eq_of_lt (by omega)]

/-- Settles O10: the group picks the row of the table; a group with no row has no unknown word, the other five the ones
above. -/
theorem unknownWordsAreThoseListed : Obligations.UnknownWordsAreThoseListed := by
  intro w
  rw [← fieldN_toNat, ← fieldNN_toNat]
  unfold decode
  dsimp only
  split
  case h_6 _ hg | h_10 _ hg => rw [fieldGroup_eq_iff.1 hg, ite_nibble_zero_error_iff]; simp
  case h_9 _ hg => rw [fieldGroup_eq_iff.1 hg, decodeGroup8_error_iff]; simp
  case h_15 _ hg => rw [fieldGroup_eq_iff.1 hg, decodeGroupE_error_iff]; simp
  case h_16 =>
    -- the group is none of the fifteen above
    have hg : fieldGroup w = 0xF := by
      simp only [imp_false] at *
      bv_omega
    rw [fieldGroup_eq_iff.1 hg, decodeGroupF_error_iff]; simp
  case h_1 _ hg =>
    rw [fieldGroup_eq_iff.1 hg]
    refine iff_of_false ?_ (by simp)
    split
    · nofun
    · split <;> nofun
  all_goals
    rename_i hg
    rw [fieldGroup_eq_iff.1 hg]
    exact iff_of_false nofun (by simp)

end Sys2Proof
end

section
/-! Noninterference (spec/10_state.md rule R51): no instruction reads the run state, the sound flags, the accumulator,
`FAULT_PC` or the outputs. -/

namespace Sys2Proof.Machine

/-- The same state but for the parts that R51 says no instruction reads, and the outputs (log 4). -/
def State.SameButControl (s t : State) : Prop :=
  ∃ (rs : RunState) (snd tone : Bool) (acc : Fin 60) (faultPc : Word) (out : StepOut),
    t = { s with rs := rs, sndStart := snd, tone := tone, acc := acc, faultPc := faultPc, out := out }

theorem State.SameButControl.stackCondition {s t : State} (h : s.SameButControl t) (c : Cause) :
    (s.stackCondition c).SameButControl (t.stackCondition c) := by
  obtain ⟨rs, snd, tone, acc, faultPc, out, ht⟩ := h
  have hcfg : t.cfg = s.cfg := (congrArg State.cfg ht).trans rfl
  cases hp : s.cfg.stackPolicy with
  | fatal =>
    rw [s.stackCondition_fatal c hp, t.stackCondition_fatal c (hcfg ▸ hp), ht]
    exact ⟨_, _, _, _, _, _, rfl⟩
  | saturate =>
    rw [s.stackCondition_saturate c hp, t.stackCondition_saturate c (hcfg ▸ hp), ht]
    exact ⟨_, _, _, _, _, _, rfl⟩

theorem State.SameButControl.callTo {s t : State} (h : s.SameButControl t) (nnn : Addr) :
    (s.callTo nnn).SameButControl (t.callTo nnn) := by
  have hfull := h.stackCondition .stackOverflow
  obtain ⟨rs, snd, tone, acc, faultPc, out, ht⟩ := h
  have hsp : t.sp.val = s.sp.val := (congrArg (fun u : State => u.sp.val) ht).trans rfl
  by_cases hlt : s.sp.val < 16
  · rw [s.callTo_of_lt nnn hlt, t.callTo_of_lt nnn (by omega)]
    subst ht
    exact ⟨_, _, _, _, _, _, rfl⟩
  · rwa [s.callTo_of_full nnn (by omega), t.callTo_of_full nnn (by omega)]

theorem State.SameButControl.returnFromCall {s t : State} (h : s.SameButControl t) :
    s.returnFromCall.SameButControl t.returnFromCall := by
  have hempty := h.stackCondition .stackUnderflow
  obtain ⟨rs, snd, tone, acc, faultPc, out, ht⟩ := h
  have hsp : t.sp.val = s.sp.val := (congrArg (fun u : State => u.sp.val) ht).trans rfl
  by_cases hpos : 0 < s.sp.val
  · rw [s.returnFromCall_of_pos hpos, t.returnFromCall_of_pos (by omega)]
    subst ht
    exact ⟨_, _, _, _, _, _, rfl⟩
  · rwa [s.returnFromCall_of_empty (by omega), t.returnFromCall_of_empty (by omega)]

theorem State.SameButControl.storeRegs {s t : State} (h : s.SameButControl t) (x : Nibble) :
    (s.storeRegs x).SameButControl (t.storeRegs x) := by
  obtain ⟨rs, snd, tone, acc, faultPc, out, rfl⟩ := h
  obtain ⟨m, hm⟩ := s.storeRegs_eq x
  refine ⟨rs, snd, tone, acc, faultPc, out, (State.storeRegs_congr x s _ ?_ ?_ ?_ ?_).trans ?_⟩
  case refine_5 => rw [hm]
  all_goals rfl

theorem State.SameButControl.loadRegs {s t : State} (h : s.SameButControl t) (x : Nibble) :
    (s.loadRegs x).SameButControl (t.loadRegs x) := by
  obtain ⟨rs, snd, tone, acc, faultPc, out, rfl⟩ := h
  obtain ⟨v, hv⟩ := s.loadRegs_eq x
  refine ⟨rs, snd, tone, acc, faultPc, out, (State.loadRegs_congr x s _ ?_ ?_ ?_ ?_).trans ?_⟩
  case refine_5 => rw [hv]
  all_goals rfl

theorem State.SameButControl.advance {s t : State} (h : s.SameButControl t) : s.advance.SameButControl t.advance := by
  obtain ⟨rs, snd, tone, acc, faultPc, out, rfl⟩ := h
  exact ⟨_, _, _, _, _, _, rfl⟩

/-- The shared operations read none of the control state, by the laws above; every other instruction's update is the
same term in the other fields. -/
theorem exec_sameButControl {i : Instr} {s s' t : State} (hs : s.SameButControl s') (h : exec i s = .next t) :
    ∃ t', exec i s' = .next t' ∧ t.SameButControl t' := by
  cases i with
  | call nnn => cases h; exact ⟨_, rfl, hs.callTo nnn⟩
  | ret => cases h; exact ⟨_, rfl, hs.returnFromCall⟩
  | ldMemX x => cases h; exact ⟨_, rfl, (hs.storeRegs x).advance⟩
  | ldXMem x => cases h; exact ⟨_, rfl, (hs.loadRegs x).advance⟩
  | _ =>
    cases h
    obtain ⟨rs, snd, tone, acc, faultPc, out, rfl⟩ := hs
    exact ⟨_, rfl, _, _, _, _, _, _, rfl⟩

/-- Settles O60: the state with other control values is the same but for control, and so then is what an instruction
leaves. -/
theorem controlStateIsReadByNoInstruction : Obligations.ControlStateIsReadByNoInstruction := by
  intro i s t rs snd tone acc faultPc out h
  obtain ⟨t', ht', rs', snd', tone', acc', faultPc', out', rfl⟩ :=
    exec_sameButControl ⟨rs, snd, tone, acc, faultPc, out, rfl⟩ h
  exact ⟨rs', snd', tone', acc', faultPc', out', ht'⟩

end Sys2Proof.Machine
end

section
/-! Calls and returns (spec/41_control_flow.md section 2), the two ways to handle a stack condition
(spec/60_exceptions.md section 1), and the jump with offset. -/

namespace Sys2Proof.Machine

/-- Settles O15: the sum of NNN and V0 is written to `PC` under `mask12`. -/
theorem jumpWithOffsetAddsVZero : Obligations.JumpWithOffsetAddsVZero := fun s nnn =>
  ⟨_, rfl, (s.setPc_pc_toNat _).trans (mask12_addr_add_byte_toNat nnn _), s.setPc_onlyChanges _⟩

/-! ### With room on the stack, or an entry -/

theorem State.returnFromCall_onlyChanges_of_pos {s : State} (h : 0 < s.sp.val) :
    OnlyChanges [.pc, .sp] s s.returnFromCall := by
  rw [s.returnFromCall_of_pos h]
  intro p hp
  have hsame := p.same_refl s
  cases p with
  | pc | sp => exact absurd (by decide) hp
  | _ => exact hsame

theorem State.callTo_onlyChanges_of_lt {s : State} (h : s.sp.val < 16) (nnn : Addr) :
    OnlyChanges [.stack, .sp, .pc] s (s.callTo nnn) := by
  rw [s.callTo_of_lt nnn h]
  intro p hp
  have hsame := p.same_refl s
  cases p with
  | stack | sp | pc => exact absurd (by decide) hp
  | _ => exact hsame

/-- Settles O13: the law of a return with an entry to pop, whose slot is the one below `SP`. -/
theorem returnPopsIntoPc : Obligations.ReturnPopsIntoPc := by
  intro s h
  have hret := s.returnFromCall_of_pos h
  refine ⟨s.returnFromCall, rfl, ?_, fun k hk => ?_, State.returnFromCall_onlyChanges_of_pos h⟩
  · rw [hret]
    exact Nat.sub_add_cancel h
  · have hslot : s.sp.val - 1 = k.val := by omega
    have hpc : s.returnFromCall.pc.toNat = (s.stack[k]).toNat % 4096 := by
      rw [hret]
      simp only [addr_setWidth_toNat, mask12_toNat, hslot, Fin.getElem_fin]
    exact ⟨hpc, fun hlt => BitVec.eq_of_toNat_eq (hpc.trans (Nat.mod_eq_of_lt hlt))⟩

/-- Settles O16: the law of a call with a free slot, the one at `SP`. -/
theorem callPushesReturnAddress : Obligations.CallPushesReturnAddress := by
  intro s nnn h
  have hcall := s.callTo_of_lt nnn h
  refine ⟨s.callTo nnn, rfl, ?_, ?_, fun k => ?_, State.callTo_onlyChanges_of_lt h nnn⟩
  · rw [hcall]
  · rw [hcall, addr_setWidth_toNat]
  · rw [hcall, Fin.getElem_fin, Vector.getElem_set]
    by_cases hk : k.val = s.sp.val
    · rw [if_pos hk, if_pos hk.symm, addr_setWidth_toNat, State.pcPlus_toNat]
      rfl
    · rw [if_neg hk, if_neg (Ne.symm hk)]
      rfl

/-! ### Without -/

section
variable {i : Instr} {s : State} {c : Cause} (hc : stackCause s i = some c)
include hc

/-- Fault entry (R384). -/
theorem completes_of_fatal (hp : s.cfg.stackPolicy = .fatal) : Completes i s fun t =>
    t.faultPc = s.pc ∧ t.rs = .faulted c ∧ causeCode t.out.fault = c.code ∧
      t.out.unknownOpcode = s.out.unknownOpcode ∧ OnlyChanges [.faultPc, .rs, .out] s t :=
  ⟨s.fatal c, (exec_of_stackCause hc).trans (congrArg _ (s.stackCondition_fatal c hp)), rfl, rfl, rfl, rfl,
    s.fatal_onlyChanges c⟩

/-- Saturating handling (R385). -/
theorem completes_of_saturate (hp : s.cfg.stackPolicy = .saturate) : Completes i s fun t =>
    PcMoves 2 s t ∧ causeCode t.out.fault = c.code ∧ t.out.unknownOpcode = s.out.unknownOpcode ∧
      OnlyChanges [.pc, .out] s t :=
  ⟨s.saturate c, (exec_of_stackCause hc).trans (congrArg _ (s.stackCondition_saturate c hp)),
    State.advance_pc_toNat_of_pc_eq rfl, rfl, rfl, s.setOut_advance_onlyChanges _⟩

end

/-- Settles O19: both instructions meet a stack condition, and the policy is `fatal`. -/
theorem fatalStackFaultIsPrecise : Obligations.FatalStackFaultIsPrecise := fun _ hp =>
  ⟨fun _ hsp => completes_of_fatal (if_pos hsp) hp, fun hsp => completes_of_fatal (if_pos hsp) hp⟩

/-- Settles O20: both instructions meet a stack condition under `saturate`, and a call so handled leaves `SP` and the
stack to the next return. -/
theorem saturatedStackConditionIsNoOp : Obligations.SaturatedStackConditionIsNoOp := by
  refine fun s hp => ⟨fun nnn hsp => ?_, fun hsp => completes_of_saturate (i := .ret) (if_pos hsp) hp⟩
  obtain ⟨t, ht, hpc, hcode, hunk, hframe⟩ := completes_of_saturate (i := .call nnn) (if_pos hsp) hp
  have hspt : t.sp.val = 16 := (congrArg _ (hframe .sp (by decide))).trans hsp
  obtain ⟨u, hu, hspu, hpop, -⟩ := returnPopsIntoPc t (by omega)
  obtain ⟨hpcu, -⟩ := hpop 15 hspt.symm
  exact ⟨t, ht, hpc, hcode, hunk, hframe, u, hu, by omega, hframe .stack (by decide) 15 ▸ hpcu⟩

end Sys2Proof.Machine
end

section
/-! The logic and arithmetic instructions (spec/42_alu.md rules R234 to R240), the random byte (rule R242), and the
registers every instruction writes (spec/10_state.md rule R32). -/

namespace Sys2Proof.Machine

/-- Settles O22: each instruction writes one register and advances, and bitwise operations on bytes are those on their
values. -/
theorem logicLeavesTheFlag : Obligations.LogicLeavesTheFlag := by
  intro s x y
  rw [← BitVec.toNat_or, ← BitVec.toNat_and, ← BitVec.toNat_xor]
  exact ⟨setsRegister_of_exec rfl, setsRegister_of_exec rfl, setsRegister_of_exec rfl⟩

theorem flagOf_decide_toNat (p : Prop) [Decidable p] : (flagOf (decide p)).toNat = if p then 1 else 0 := by
  by_cases h : p
  · rw [decide_eq_true h, if_pos h]; rfl
  · rw [decide_eq_false h, if_neg h]; rfl

/-- Settles O23: the sum of two bytes wraps modulo 256, and the flag compares the exact sum with 255. -/
theorem addSetsCarry : Obligations.AddSetsCarry := by
  intro s x y
  have hadd : (s.getV x + s.getV y).toNat = ((s.getV x).toNat + (s.getV y).toNat) % 256 := BitVec.toNat_add _ _
  rw [← hadd, ← flagOf_decide_toNat]
  exact setsRegisterAndFlag_of_exec rfl

theorem byte_sub_toNat (a b : Byte) : (a - b).toNat = (a.toNat + 256 - b.toNat) % 256 := by
  have hb := b.isLt
  rw [BitVec.toNat_sub]
  omega

/-- Settles O24: the difference of two bytes wraps modulo 256, and the flag compares them strictly (conflict C2). -/
theorem subtractsSetNoBorrow : Obligations.SubtractsSetNoBorrow := by
  intro s x y
  rw [← byte_sub_toNat, ← byte_sub_toNat, ← flagOf_decide_toNat, ← flagOf_decide_toNat]
  exact ⟨setsRegisterAndFlag_of_exec rfl, setsRegisterAndFlag_of_exec rfl⟩

/-! ### The random byte -/

theorem State.countDraw_onlyChanges (s : State) : OnlyChanges [.draws] s s.countDraw := by
  intro p hp
  cases p with
  | draws => exact absurd (List.mem_singleton.2 rfl) hp
  | _ => simp [Part.Same]

/-- Settles O26: CXNN writes the masked draw to one register, counts the draw and advances. -/
theorem randomByteUnderMask : Obligations.RandomByteUnderMask := by
  intro s x nn
  have hx : (s.setV x (Config.randByte s.draws &&& nn)).countDraw.advance.getV x = Config.randByte s.draws &&& nn :=
    s.getV_setV_same x _
  refine ⟨_, rfl, ?_, fun hnn => ?_, rfl, fun k hk => ?_, State.advance_pc_toNat_of_pc_eq rfl, ?_⟩
  · rw [hx, BitVec.toNat_and]
  · rw [hx, hnn]
    exact BitVec.and_zero
  · exact s.getV_setV_other _ (List.ne_of_not_mem_cons hk).symm
  · exact ((s.setV_onlyChanges x _).mono (by decide)).trans
      ((State.countDraw_onlyChanges _).advance.mono (by decide))

/-! ### The registers written -/

theorem State.setV_regsSameBut (s : State) (x : Nibble) (b : Byte) : RegsSameBut [x] s (s.setV x b) := fun _ hk =>
  s.getV_setV_other b (List.ne_of_not_mem_cons hk).symm

theorem State.setResultFlag_regsSameBut (s : State) (x : Nibble) (r f : Byte) :
    RegsSameBut [x, 15] s (s.setResultFlag x r f) := by
  intro k hk
  rw [List.mem_pair, not_or] at hk
  obtain ⟨hkx, hkf⟩ := hk
  exact s.setResultFlag_other r f hkx hkf

/-- FX65 writes the registers up to X (R286). -/
theorem State.loadRegs_regsSameBut (s : State) (x : Nibble) :
    RegsSameBut (writtenRegs (.ldXMem x)) s (s.loadRegs x) := by
  intro k hk
  rw [State.loadRegs_getV, if_neg]
  intro hle
  have hofNat : BitVec.ofNat 4 k.toNat = k := (BitVec.ofNat_toNat 4 k).trans (BitVec.setWidth_eq k)
  exact hk (List.mem_map.2 ⟨k.toNat, List.mem_range.2 (Nat.lt_succ_of_le hle), hofNat⟩)

/-- Settles O55: one register, a result and its flag, VF of a draw, or the registers of FX65 are written, by the laws
above; the other instructions write other fields. -/
theorem onlyTheListedRegistersAreWritten : Obligations.OnlyTheListedRegistersAreWritten := by
  intro i s t h
  cases i with
  | ldImm x | addImm x | ldReg x | orReg x | andReg x | xorReg x | rnd x | ldXDt x =>
    cases h; exact s.setV_regsSameBut x _
  | addReg x | sub x | shr x | subn x | shl x => cases h; exact s.setResultFlag_regsSameBut x _ _
  | drw => cases h; exact State.setV_regsSameBut _ flagReg _
  | ldXMem x => cases h; exact s.loadRegs_regsSameBut x
  | call nnn => cases h; exact fun k _ => s.callTo_onlyChanges nnn .regs (by decide) k
  | ret => cases h; exact fun k _ => s.returnFromCall_onlyChanges .regs (by decide) k
  | ldMemX x => cases h; exact fun k _ => s.storeRegs_onlyChanges x .regs (by decide) k
  | _ => cases h; exact fun _ _ => rfl

end Sys2Proof.Machine
end

section
/-! Memory transfers (spec/43_index_memory.md rules R283, R285 and R286), and the timer writes and the latch
(spec/45_keys_timers.md rules R354 to R356). -/

namespace Sys2Proof.Machine

/-- Settles O30: the laws of `storeRegs`, and the default update of `PC`. -/
theorem storeRegistersFromIndex : Obligations.StoreRegistersFromIndex := by
  intro s x
  refine ⟨(s.storeRegs x).advance, rfl, fun k hk => ?_, fun a ha => ?_,
    State.advance_pc_toNat_of_pc_eq (s.storeRegs_pc x), (s.storeRegs_onlyChanges x).advance⟩
  · rw [State.advance_readMem, s.storeRegs_at x hk, BitVec.ofNat_toNat, BitVec.setWidth_eq]
  · exact s.storeRegs_other x fun k hk => (ha k hk).symm

/-- Settles O31: the laws of `loadRegs`, and the default update of `PC`. -/
theorem loadRegistersFromIndex : Obligations.LoadRegistersFromIndex := fun s x =>
  ⟨(s.loadRegs x).advance, rfl, s.loadRegs_getV x, State.advance_pc_toNat_of_pc_eq (s.loadRegs_pc x),
    (s.loadRegs_onlyChanges x).advance⟩

/-- Settles O33: the glyph address is the font's base plus five times the digit, so the bytes from `I` are five
consecutive bytes of the font. -/
theorem fontGlyphIsWhereIndexPoints : Obligations.FontGlyphIsWhereIndexPoints := by
  intro s x hdigit hfont
  refine ⟨(s.setI (s.glyphAddr (s.getV x))).advance, rfl, fun k hk => ?_⟩
  have haddr : (s.setI (s.glyphAddr (s.getV x))).advance.addrI k =
      BitVec.ofNat 12 (s.cfg.fontBase.toNat + ((s.getV x).toNat * 5 + k)) := by
    apply BitVec.eq_of_toNat_eq
    rw [State.advance_addrI, State.addrI_toNat, State.setI_i_toNat, State.glyphAddr_toNat, BitVec.toNat_ofNat]
    omega
  rw [haddr]
  exact hfont _ (by omega)

/-! ### Timers and the latch -/

theorem State.setDt_onlyChanges (s : State) (b : Byte) : OnlyChanges [.dt] s (s.setDt b) := by
  intro p hp
  cases p with
  | dt => exact absurd (List.mem_singleton.2 rfl) hp
  | _ => simp [Part.Same]

theorem State.setSt_onlyChanges (s : State) (b : Byte) : OnlyChanges [.st] s (s.setSt b) := by
  intro p hp
  cases p with
  | st => exact absurd (List.mem_singleton.2 rfl) hp
  | _ => simp [Part.Same]

theorem State.setSndStart_onlyChanges (s : State) (b : Bool) : OnlyChanges [.sndStart] s (s.setSndStart b) := by
  intro p hp
  cases p with
  | sndStart => exact absurd (List.mem_singleton.2 rfl) hp
  | _ => simp [Part.Same]

/-- FX18 marks a start exactly when `ST` goes from 0 to nonzero (R356). -/
theorem ldStX_sndStart {s t : State} {x : Nibble} (h : exec (.ldStX x) s = .next t) :
    t.sndStart = (s.sndStart || (s.st == 0 && s.getV x != 0)) := by
  cases h
  rfl

/-- Settles O37: one timer, `SND_START` by the law above, or `RS` is written, and the timer writes advance. -/
theorem timerWritesAndKeyWait : Obligations.TimerWritesAndKeyWait := by
  refine fun s x => ⟨⟨_, rfl, rfl, State.advance_pc_toNat_of_pc_eq rfl, (s.setDt_onlyChanges _).advance⟩,
    ⟨_, rfl, rfl, fun hstart => ?_, fun hstart => ?_, State.advance_pc_toNat_of_pc_eq rfl, ?_⟩,
    ⟨_, rfl, rfl, s.setRs_onlyChanges _⟩⟩
  · obtain ⟨h0, hx⟩ := hstart
    rw [ldStX_sndStart rfl, h0, bne_iff_ne.2 hx]
    exact Bool.or_true _
  · rw [ldStX_sndStart rfl]
    simpa using fun h0 hx => absurd ⟨h0, hx⟩ hstart
  · exact ((s.setSndStart_onlyChanges _).mono (by decide)).trans
      ((State.setSt_onlyChanges _ _).advance.mono (by decide))

end Sys2Proof.Machine
end

section
/-! DXYN (spec/44_display.md rules R322 and R323): one draw, and a second of the same sprite. -/

namespace Sys2Proof.Machine

/-- Whether DXYN's sprite has a 1 bit at column `c` and row `r`, its origin read from `V[X]` and `V[Y]` (R322). -/
def State.drawCovers (s : State) (x y n : Nibble) (c r : Nat) : Bool :=
  spriteCovers s ((s.getV x).toNat % 64) ((s.getV y).toNat % 32) n.toNat c r

/-- A lit pixel lies under a 1 bit of DXYN's sprite (R323). -/
def State.drawCollides (s : State) (x y n : Nibble) : Prop :=
  ∃ c r : Nat, c < 64 ∧ r < 32 ∧ Display.pixel s.disp (pixelIndex c r) = true ∧ s.drawCovers x y n c r = true

/-- The canvas of DXYN. -/
def State.drawCanvas (s : State) (x y n : Nibble) : Canvas :=
  s.drawSprite ((s.getV x).toNat % 64) ((s.getV y).toNat % 32) n.toNat

/-- The state DXYN leaves. -/
def State.drawn (s : State) (x y n : Nibble) : State :=
  (((s.setDisp (s.drawCanvas x y n).disp).setV flagReg (flagOf (s.drawCanvas x y n).hit)).requestRedraw).advance

theorem flagOf_eq_one (c : Bool) : flagOf c = 1 ↔ c = true := by cases c <;> decide

section
variable (s : State) (x y n : Nibble)

theorem exec_drw : exec (.drw x y n) s = .next (s.drawn x y n) := rfl

theorem State.drawn_pixel {c r : Nat} (hc : c < 64) (hr : r < 32) :
    Display.pixel (s.drawn x y n).disp (pixelIndex c r) =
      (Display.pixel s.disp (pixelIndex c r) ^^ s.drawCovers x y n c r) :=
  s.drawSprite_pixel (Nat.mod_lt _ (by decide)) (Nat.mod_lt _ (by decide)) (by omega) hc hr

theorem State.drawn_getV_flag : (s.drawn x y n).getV 15 = flagOf (s.drawCanvas x y n).hit :=
  State.getV_setV_same _ flagReg _

theorem State.drawCanvas_hit : (s.drawCanvas x y n).hit = true ↔ s.drawCollides x y n :=
  s.drawSprite_hit (Nat.mod_lt _ (by decide)) (Nat.mod_lt _ (by decide)) (by omega)

theorem State.drawn_flag_eq_one : (s.drawn x y n).getV 15 = 1 ↔ s.drawCollides x y n := by
  rw [State.drawn_getV_flag, flagOf_eq_one, State.drawCanvas_hit]

theorem State.drawn_flag_toNat {p : Prop} [Decidable p] (hp : s.drawCollides x y n ↔ p) :
    ((s.drawn x y n).getV 15).toNat = if p then 1 else 0 := by
  have hhit : (s.drawCanvas x y n).hit = decide p :=
    Bool.eq_iff_iff.2 ((s.drawCanvas_hit x y n).trans (hp.trans decide_eq_true_iff.symm))
  rw [State.drawn_getV_flag, hhit, flagOf_decide_toNat]

theorem State.drawn_regsSameBut : RegsSameBut [15] s (s.drawn x y n) :=
  State.setV_regsSameBut (s.setDisp (s.drawCanvas x y n).disp) flagReg _

theorem State.drawn_onlyChanges : OnlyChanges [.regs, .disp, .redraw, .pc] s (s.drawn x y n) :=
  ((s.setDisp_onlyChanges _).mono (by decide)).trans
    (((State.setV_onlyChanges _ _ _).mono (by decide)).trans
      ((State.requestRedraw_onlyChanges _).advance.mono (by decide)))

end

/-- Settles O35: the laws of the drawn state above. -/
theorem drawIsExclusiveOr : Obligations.DrawIsExclusiveOr := by
  intro s x y n
  have hcollides : s.drawCollides x y n ↔ ∃ c : Fin 64, ∃ r : Fin 32,
      Display.pixel s.disp (pixelIndex c r) = true ∧ s.drawCovers x y n c r = true :=
    ⟨fun ⟨c, r, hc, hr, h⟩ => ⟨⟨c, hc⟩, ⟨r, hr⟩, h⟩, fun ⟨c, r, h⟩ => ⟨c, r, c.isLt, r.isLt, h⟩⟩
  exact ⟨_, exec_drw s x y n, fun c r hc hr => s.drawn_pixel x y n hc hr, s.drawn_flag_toNat x y n hcollides, rfl,
    s.drawn_regsSameBut x y n, State.advance_pc_toNat_of_pc_eq rfl, s.drawn_onlyChanges x y n⟩

/-! ### The second draw -/

/-- A draw whose registers are not VF leaves its sprite where and as it was. -/
theorem State.drawn_drawCovers (s : State) {x y : Nibble} (n : Nibble) (hx : x ≠ 15) (hy : y ≠ 15) (c r : Nat) :
    (s.drawn x y n).drawCovers x y n c r = s.drawCovers x y n c r := by
  have hVx : (s.drawn x y n).getV x = s.getV x := s.drawn_regsSameBut x y n x (List.mem_singleton.not.2 hx)
  have hVy : (s.drawn x y n).getV y = s.getV y := s.drawn_regsSameBut x y n y (List.mem_singleton.not.2 hy)
  rw [State.drawCovers, State.drawCovers, hVx, hVy]
  rfl

/-- Settles O36: two exclusive ors with one sprite cancel, and a covered pixel is lit between them exactly when it was
unlit before. -/
theorem drawTwiceRestoresTheDisplay : Obligations.DrawTwiceRestoresTheDisplay := by
  intro s t u x y n hx hy ht hu
  cases ht
  cases hu
  have hcovers := s.drawn_drawCovers n hx hy
  refine ⟨fun idx => ?_, ?_⟩
  · have hc : idx.val % 64 < 64 := Nat.mod_lt _ (by decide)
    have hr : idx.val / 64 < 32 := by omega
    have hpixel := (s.drawn x y n).drawn_pixel x y n hc hr
    rwa [hcovers, s.drawn_pixel x y n hc hr, Bool.xor_assoc, Bool.xor_self, Bool.xor_false, pixelIndex_surj] at hpixel
  · refine (State.drawn_flag_eq_one (s.drawn x y n) x y n).trans (exists_congr fun c => exists_congr fun r =>
      and_congr_right fun hc => and_congr_right fun hr => ?_)
    rw [hcovers c r, s.drawn_pixel x y n hc hr]
    exact and_congr_left fun hcov => by rw [hcov, Bool.xor_true, Bool.not_eq_true']

end Sys2Proof.Machine
end

section
/-! Keys, loading and the boot sequence (spec/60_exceptions.md section 6, spec/70_reset_and_hazards.md sections 1
and 2), and what reset leaves. -/

namespace Sys2Proof.Machine

/-! ### Key delivery -/

theorem State.deliverKeyAt_getKey (s : State) (k j : Nibble) (p : Bool) :
    (s.deliverKeyAt k p).getKey j = if k = j then p else s.getKey j := by
  by_cases h : p = false ∨ ∀ x, s.rs ≠ .waitingForKey x
  · rw [State.deliverKeyAt_eq_setKey k h, State.getKey_setKey]
  · push Not at h
    obtain ⟨hp, x, hx⟩ := h
    obtain rfl := Bool.eq_true_of_not_eq_false hp
    rw [s.deliverKeyAt_press k x hx]
    exact s.getKey_setKey k j true

/-- Settles O38: the laws of a press that resolves the latch, and of every other delivery. -/
theorem keyDelivery : Obligations.KeyDelivery := by
  intro s k p hk
  have hkey : (BitVec.ofNat 4 k).toNat = k := by rw [BitVec.toNat_ofNat]; omega
  refine ⟨s.deliverKeyAt (BitVec.ofNat 4 k) p, deliverKey_of_lt p s hk, fun j => ?_, fun x hx hp => ?_, fun h => ?_⟩
  · rw [State.deliverKeyAt_getKey]
    exact if_congr (by rw [← BitVec.toNat_inj, hkey, eq_comm]) rfl rfl
  · subst hp
    have hV := State.deliverKeyAt_press_getV (BitVec.ofNat 4 k) hx
    refine ⟨?_, fun j hj => ?_, State.deliverKeyAt_press_pcMoves _ hx, State.deliverKeyAt_press_rs _ hx,
      s.deliverKeyAt_onlyChanges _ true⟩
    · rw [hV, if_pos rfl, BitVec.toNat_setWidth, hkey]
      omega
    · rw [hV, if_neg (List.ne_of_not_mem_cons hj).symm]
  · rw [State.deliverKeyAt_eq_setKey _ h]
    exact s.setKey_onlyChanges _ p

/-! ### Loading -/

theorem load_of_le {bytes : List Byte} {offset : Addr} (h : offset.toNat + bytes.length ≤ 4096) (s : State) :
    load bytes offset s = .ok (s.storeBytes offset.toNat bytes) := if_neg (Nat.not_lt.2 h)

theorem load_of_gt {bytes : List Byte} {offset : Addr} (h : 4096 < offset.toNat + bytes.length) (s : State) :
    load bytes offset s = .error .romLoadError := if_pos h

/-- What a load that fits leaves (R410). -/
theorem State.storeBytes_readMem_other {bytes : List Byte} {s : State} {b : Nat} {a : Addr}
    (h : b + bytes.length ≤ 4096) (ha : a.toNat < b ∨ b + bytes.length ≤ a.toNat) :
    (s.storeBytes b bytes).readMem a = s.readMem a := by
  rw [State.storeBytes_readMem _ _ _ h, dif_neg (by omega)]

/-- Settles O45: the law of `storeBytes`, at the addresses of the bytes and at the others. -/
theorem loadPlacesTheBytes : Obligations.LoadPlacesTheBytes := by
  refine fun bytes offset s => ⟨fun h => ⟨s.storeBytes offset.toNat bytes, load_of_le h s, fun j hj => ?_,
    fun a => State.storeBytes_readMem_other h, State.storeBytes_onlyChanges _ _ _⟩, fun h => load_of_gt h s⟩
  have haddr : (BitVec.ofNat 12 (offset.toNat + j)).toNat = offset.toNat + j := by rw [BitVec.toNat_ofNat]; omega
  rw [State.storeBytes_readMem _ _ _ h, dif_pos (by omega)]
  simp only [haddr, Nat.add_sub_cancel_left]

theorem sessionLoad_of_le {rom : List Byte} (h : rom.length ≤ 3584) (s : State) :
    sessionLoad rom ⟨.fresh, s⟩ = .next ⟨.loaded, s.storeBytes 0x200 rom⟩ := by
  have hfits : (0x200 : Addr).toNat + rom.length ≤ 4096 := by
    have hoffset : (0x200 : Addr).toNat = 512 := rfl
    omega
  simp only [sessionLoad, load_of_le hfits]
  rfl

theorem sessionLoad_of_gt {rom : List Byte} (h : 3584 < rom.length) (s : State) :
    sessionLoad rom ⟨.fresh, s⟩ = .fault .romLoadError := by
  have hlong : 4096 < (0x200 : Addr).toNat + rom.length := by
    have hoffset : (0x200 : Addr).toNat = 512 := rfl
    omega
  simp only [sessionLoad, load_of_gt hlong]

/-- Settles O40: the refusals are the laws of a delivery and of the session's phases; a boot load that fits writes from
0x200 on, and the font ends there at the latest (R453). -/
theorem hostDutiesAreRefused : Obligations.HostDutiesAreRefused := by
  refine ⟨fun k p s => deliverKey_of_ge p s, fun _ _ => rfl, fun _ _ => rfl, fun rom s h => sessionLoad_of_gt h s,
    fun rom s h => ?_⟩
  have hlow : ∀ a : Addr, a.toNat < 0x200 → (s.storeBytes 0x200 rom).readMem a = s.readMem a :=
    fun a ha => State.storeBytes_readMem_other (by omega) (.inl ha)
  refine ⟨s.storeBytes 0x200 rom, sessionLoad_of_le h s, State.storeBytes_onlyChanges rom s _, hlow, fun j hj => ?_⟩
  have hfont := s.cfg.fontBelowRom
  refine hlow _ ?_
  rw [BitVec.toNat_ofNat]
  omega

/-! ### Reset -/

/-- At reset memory lists nothing (R450, log 11). -/
theorem State.resetWith_readMem (cfg : Config) (a : Addr) :
    (State.resetWith cfg).readMem a = unlistedByte cfg a.toNat := rfl

theorem unlistedByte_font (cfg : Config) {j : Nat} (h : j < 80) :
    unlistedByte cfg (cfg.fontBase.toNat + j) = cfg.fontData[j] := by
  rw [unlistedByte, dif_pos (by omega)]
  simp only [Nat.add_sub_cancel_left]

theorem unlistedByte_other (cfg : Config) {a : Nat}
    (h : a < cfg.fontBase.toNat ∨ cfg.fontBase.toNat + 80 ≤ a) : unlistedByte cfg a = 0 := by
  rw [unlistedByte, dif_neg (by omega)]

/-- Settles O50: the fields are as `resetWith` writes them, and memory, which lists nothing, reads as the font or 0. -/
theorem resetLeaves : Obligations.ResetLeaves := by
  refine fun cfg => ⟨rfl, rfl, rfl, rfl, rfl, rfl, rfl, rfl, rfl, rfl, rfl, rfl, fun k => ⟨?_, ?_⟩, fun k => ?_,
    Display.pixel_blank, fun j hj => ?_, fun a ha => ?_⟩
  · exact Vector.getElem_replicate _
  · exact Vector.getElem_replicate _
  · exact Vector.getElem_replicate _
  · have haddr : (BitVec.ofNat 12 (cfg.fontBase.toNat + j)).toNat = cfg.fontBase.toNat + j := by
      have hfont := cfg.fontBelowRom
      rw [BitVec.toNat_ofNat]
      omega
    rw [State.resetWith_readMem, haddr, unlistedByte_font cfg hj]
  · rw [State.resetWith_readMem, unlistedByte_other cfg ha]

end Sys2Proof.Machine
end

section
/-! Sound edges (spec/60_exceptions.md section 4), the rate of the frames and the end of a faulting frame (section 7). -/

namespace Sys2Proof.Machine

/-! ### Sound -/

/-- No start is pending, and the tone is on exactly while `ST` is not 0: so every tick leaves it (R395). -/
def State.ToneFollowsTimer (s : State) : Prop := s.sndStart = false ∧ (s.tone = true ↔ s.st ≠ 0)

theorem State.ticked_toneFollowsTimer (s : State) (h : s.sndStart = false) : s.ticked.ToneFollowsTimer := by
  refine ⟨rfl, ?_⟩
  have htone : s.ticked.tone = (countDown s.st != 0) := by
    rw [← Bool.or_false (countDown s.st != 0), ← h]
    rfl
  rw [htone]
  exact bne_iff_ne

/-- The tone that follows the timer changes at the tick that brings `ST` from 1 to 0. -/
theorem State.ToneFollowsTimer.edge_iff {s : State} (h : s.ToneFollowsTimer) :
    (tickTimers s).2.edge = true ↔ s.st.toNat = 1 := by
  obtain ⟨hstart, htone⟩ := h
  have hnew : s.newTone = true ↔ 1 < s.st.toNat := by rw [State.newTone_iff, hstart]; simp
  have hold : s.tone = true ↔ 0 < s.st.toNat := by
    rw [htone, Nat.pos_iff_ne_zero]
    exact BitVec.toNat_ne_iff_ne.symm
  have hedge : (tickTimers s).2.edge = true ↔ ¬(s.newTone = true ↔ s.tone = true) := by
    rw [← Bool.eq_iff_iff]
    exact bne_iff_ne
  rw [hedge, hnew, hold]
  omega

/-- Settles O43, by induction on the ticks before: each takes 1 from `ST` and leaves the tone following it. -/
theorem soundStopsOnceAtZero : Obligations.SoundStopsOnceAtZero := by
  intro s n
  induction n generalizing s with
  | zero =>
    exact fun hstart htone => (State.ToneFollowsTimer.edge_iff ⟨hstart, htone⟩).trans eq_comm
  | succ n ih =>
    intro hstart _
    obtain ⟨hstart', htone'⟩ := s.ticked_toneFollowsTimer hstart
    have hst : s.ticked.st.toNat = s.st.toNat - 1 := countDown_toNat s.st
    rw [State.tickedTimes, ih s.ticked hstart' htone']
    omega

/-- Settles O44: the pending start turns the tone on at the next tick, which clears it and takes `ST` from 1 to 0, so that
the tick after turns the tone off. -/
theorem soundStartsAtTheNextTick : Obligations.SoundStartsAtTheNextTick := by
  intro s t x h0 hx h
  have hstart : t.sndStart = true := by
    rw [ldStX_sndStart h, h0, bne_iff_ne.2 hx]
    exact Bool.or_true _
  have htone : t.newTone = true := t.newTone_iff.2 (.inr hstart)
  have hst : t.st = s.getV x := by cases h; rfl
  have hold : t.tone = s.tone := by cases h; rfl
  refine ⟨htone, ?_, fun h1 => ?_⟩
  · have hedge : (tickTimers t).2.edge = (t.newTone != t.tone) := rfl
    rw [hedge, htone, hold, Bool.true_bne, Bool.not_eq_true']
  · have hoff : t.ticked.newTone = false := by
      have hst1 : t.ticked.st.toNat = t.st.toNat - 1 := countDown_toNat t.st
      rw [hst, h1] at hst1
      rw [Bool.eq_false_iff, Ne, State.newTone_iff, hst1]
      exact not_or.2 ⟨by decide, Bool.false_ne_true⟩
    have htick : (tickTimers t.ticked).2 = ⟨t.ticked.newTone != t.newTone, t.ticked.newTone⟩ := rfl
    exact htick.trans (by rw [hoff, htone]; rfl)

/-! ### The rate -/

/-- A frame with no fault runs `(ACC + RATE) div 60` steps and keeps the remainder (R422). -/
theorem frame_steps_and_acc {events : List KeyEvent} {s u : State} {o : FrameOut} (h : frame events s = .next (u, o))
    (hfault : o.fault = none) :
    o.steps.length = (s.acc.val + s.cfg.rate) / 60 ∧ u.acc.val = (s.acc.val + s.cfg.rate) % 60 ∧ u.cfg = s.cfg := by
  obtain ⟨c, -, -, rfl⟩ | ⟨-, t, v, outs, ht, hv, he⟩ := frame_cases h
  · cases hfault
  · have hbudget := drainEvents_budget ht
    obtain ⟨hcfg, hacc⟩ := runSlots_keeps_cfg_acc hv
    have hend := endFrame_onlyChanges v outs
    obtain ⟨tone, sound, fault, hparts⟩ := endFrame_eq v outs
    have hsteps : (endFrame v outs).2.steps = outs := by rw [hparts]
    rw [he] at hend hsteps
    refine ⟨?_, ?_, ?_⟩
    · rw [hsteps, runSlots_length _ hv, State.slots, hbudget]
    · rw [hend .acc (by decide), hacc, ← hbudget]
      rfl
    · exact (hend .cfg (by decide)).trans (hcfg.trans (drainEvents_onlyChanges ht .cfg (by decide)))

theorem runFrames_cons {events : List KeyEvent} {fs : List (List KeyEvent)} {s u : State} {os : List FrameOut}
    (h : runFrames (events :: fs) s = .next (u, os)) :
    ∃ t o os', frame events s = .next (t, o) ∧ runFrames fs t = .next (u, os') ∧ os = o :: os' := by
  rw [runFrames] at h
  split at h
  next t o hto =>
    split at h
    next u' os' hrest => cases h; exact ⟨t, o, os', hto, hrest, rfl⟩
    next => cases h
    next => cases h
  next => cases h
  next => cases h

theorem runFrames_steps_and_acc (fs : List (List KeyEvent)) {s t : State} {os : List FrameOut}
    (h : runFrames fs s = .next (t, os)) (hfault : ∀ o ∈ os, o.fault = none) :
    (os.map fun o => o.steps.length).sum = (s.acc.val + fs.length * s.cfg.rate) / 60 ∧
      t.acc.val = (s.acc.val + fs.length * s.cfg.rate) % 60 := by
  induction fs generalizing s os with
  | nil =>
    have hlt := s.acc.isLt
    cases h
    simp only [List.map_nil, List.sum_nil, List.length_nil]
    omega
  | cons events fs ih =>
    obtain ⟨u, o, os', ho, hrest, rfl⟩ := runFrames_cons h
    obtain ⟨hfo, hfos⟩ := List.forall_mem_cons.1 hfault
    obtain ⟨hlen, hacc, hcfg⟩ := frame_steps_and_acc ho hfo
    obtain ⟨hsum, ht⟩ := ih hrest hfos
    rw [hcfg] at hsum ht
    rw [List.map_cons, List.sum_cons, List.length_cons, Nat.succ_mul]
    omega

/-- Settles O47: what one frame drops of `ACC + RATE` it keeps in `ACC` for the next, so 60 frames drop nothing. -/
theorem framesKeepTheRateExactly : Obligations.FramesKeepTheRateExactly := by
  intro fs s t os h hfault
  obtain ⟨hsum, hacc⟩ := runFrames_steps_and_acc fs h hfault
  refine ⟨hsum, hacc, fun hlen => ?_⟩
  have hlt := s.acc.isLt
  rw [hsum, hlen]
  omega

/-! ### The end of a faulting frame -/

/-- Settles O48: the law of a frame in `Faulted`, and of the end of a frame that faulted, whose sound is off or none. -/
theorem faultEndsTheFramesSilently : Obligations.FaultEndsTheFramesSilently := by
  refine ⟨fun s es c hc => frame_of_faulted hc es, fun v outs c hc => ?_⟩
  rw [endFrame_of_faulted v outs c hc]
  refine ⟨rfl, rfl, fun htone => if_pos htone, ?_⟩
  by_cases htone : v.newTone = true
  · rw [if_pos htone]
    nofun
  · rw [if_neg htone, Bool.eq_false_of_not_eq_true htone]
    cases (tickTimers v).2.edge <;> nofun

end Sys2Proof.Machine
end
